-- ==== Sys2Proof/Word.lean ====
section
/-! DEFINITION. The two word types of the engine's interface. -/

namespace Sys2Proof

/-- A command word, a register or a window word: 32 bits (spec/00_scope.md R11). Bit 0 is the least significant (R12). -/
abbrev Word := BitVec 32

/-- A sample or a byte of the output raster: 8 bits (spec/00_scope.md R11). -/
abbrev Byte := BitVec 8

end Sys2Proof
end

