-- ==== Sys2Proof/Config.lean ====
section
/-! DEFINITION. What one instance of the engine fixes and the spec leaves open: the three parameters of
spec/00_scope.md R10, and the free values that stand for the spec's "unspecified" and "draw". Nothing here has a value
that a proof could use. -/

namespace Sys2Proof

/-- The three OPEN parameters of spec/00_scope.md R10. -/
structure Params where
  /-- `MAX_FRAME_W`: the largest accepted frame width in pixels. -/
  maxFrameW : Nat
  /-- `MAX_FRAME_H`: the largest accepted frame height in pixels. -/
  maxFrameH : Nat
  /-- `CMD_FIFO_DEPTH`: how many words the command FIFO holds. -/
  fifoDepth : Nat
  deriving DecidableEq, Repr

/-- The ranges R10 gives the parameters, and its constraint that the output window fits in the offset space. -/
abbrev Params.Legal (p : Params) : Prop :=
  (1 ≤ p.maxFrameW ∧ p.maxFrameW ≤ 65535) ∧ (1 ≤ p.maxFrameH ∧ p.maxFrameH ≤ 65535) ∧
  (1 ≤ p.fifoDepth ∧ p.fifoDepth ≤ 65535) ∧ p.maxFrameW * p.maxFrameH * 3 ≤ 0xFF000000

namespace Config

/-- FREE. Three unknown numbers from which the parameters are made. -/
opaque freeParam : Nat → Nat

/-- FREE. The draws of spec/10_state.md R67 and spec/93_implementation_defined.md section 2: the value of width `w` of
draw number `draw`, `index` telling apart the values taken within one draw. -/
opaque freeBits (w draw index : Nat) : BitVec w

/-- `MAX_FRAME_W`: any number in 1..65535 (R10). -/
def maxFrameW : Nat := 1 + freeParam 0 % 65535

/-- `MAX_FRAME_H`: any number in 1..65535 with `MAX_FRAME_W × MAX_FRAME_H × 3 ≤ 0xFF00_0000` (R10). -/
def maxFrameH : Nat := 1 + freeParam 1 % min 65535 (0xFF000000 / (3 * maxFrameW))

/-- `CMD_FIFO_DEPTH`: any number in 1..65535 (R10). -/
def fifoDepth : Nat := 1 + freeParam 2 % 65535

/-- The parameters of the instance: any legal triple, and nothing more is known of it (log 2). -/
def params : Params := ⟨maxFrameW, maxFrameH, fifoDepth⟩

end Config
end Sys2Proof
end

