-- ==== Sys2Proof/Syntax.lean ====
section
/-! DEFINITION. The seven commands of spec/30_encoding.md R112 with their operands, one constructor a row of
spec/opcode_table.json. An operand has the width of its field (R114 to R120), so a value that fits the field and is
illegal can still be written: the engine's checks then apply (R125, R129). -/

namespace Sys2Proof

/-- A whole command: its header's fields and its payload words. -/
inductive Instr where
  /-- `NOP` (spec/41_frame.md R160). -/
  | nop
  /-- `SET_FRAME` (R161): component count, then the payload's HEIGHT and WIDTH (R115, R117). -/
  | setFrame (nc : BitVec 4) (height width : BitVec 16)
  /-- `SET_COMP` (R165): component index, sampling factors, table id (R116). -/
  | setComp (ci : BitVec 2) (hs vs tq : BitVec 4)
  /-- `LOAD_QT` (spec/40_tables.md R143): precision flag, table id (R118), 64 entry words in zigzag order (R119). -/
  | loadQt (pq tq : BitVec 4) (entries : Vector Word 64)
  /-- `START` (R170). -/
  | start
  /-- `BLOCK` (spec/42_block.md R190): 64 coefficient words in zigzag order (R120). -/
  | block (coefs : Vector Word 64)
  /-- `FINISH` (spec/43_reconstruct.md R220). -/
  | finish
  deriving DecidableEq, Repr

end Sys2Proof
end

