-- ==== Sys2Proof/Decode.lean ====
section
/-! DEFINITION. From command words to commands and back (spec/30_encoding.md). A command word is a 32-bit value with no
byte order (spec/20_memory.md R87), so the decoder reads a list of words; it is total, and rejects by name. -/

namespace Sys2Proof

/-- The opcodes of spec/30_encoding.md R112 and R122. -/
inductive Opcode where
  | nop | setFrame | setComp | loadQt | start | block | finish
  deriving DecidableEq, Repr

/-- The opcode's number, bits [31:24] of the header (R122). -/
def Opcode.code : Opcode → BitVec 8
  | .nop => 0x00
  | .setFrame => 0x01
  | .setComp => 0x02
  | .loadQt => 0x03
  | .start => 0x04
  | .block => 0x05
  | .finish => 0x06

/-- `LEN(op)`: the command's length in words (R112). -/
def Opcode.len : Opcode → Nat
  | .nop => 1
  | .setFrame => 2
  | .setComp => 1
  | .loadQt => 65
  | .start => 1
  | .block => 65
  | .finish => 1

/-- The MATCH column of the opcode map (R122). -/
def Opcode.matchWord : Opcode → Word
  | .nop => 0x00000000
  | .setFrame => 0x01000000
  | .setComp => 0x02000000
  | .loadQt => 0x03000000
  | .start => 0x04000000
  | .block => 0x05000000
  | .finish => 0x06000000

/-- The MASK column of the opcode map (R122). -/
def Opcode.mask : Opcode → Word
  | .nop => 0xFFFFFFFF
  | .setFrame => 0xFFFFFFF0
  | .setComp => 0xFFFCF000
  | .loadQt => 0xFFFFFF00
  | .start => 0xFFFFFFFF
  | .block => 0xFFFFFFFF
  | .finish => 0xFFFFFFFF

/-- `RESMASK(op)`: the header bits of [23:0] that no field uses, "`MASK` with bits [31:24] cleared" (R111, R122). -/
def Opcode.resMask (op : Opcode) : Word := op.mask &&& 0x00FFFFFF

/-- The opcode a number names; 0x07 to 0xFF are reserved (R123). -/
def opcodeOfByte (b : BitVec 8) : Option Opcode :=
  match b.toNat with
  | 0 => some .nop
  | 1 => some .setFrame
  | 2 => some .setComp
  | 3 => some .loadQt
  | 4 => some .start
  | 5 => some .block
  | 6 => some .finish
  | _ => none

/-- `w[lo+len-1 : lo]` (spec/00_scope.md R12). -/
abbrev bits (w : Word) (lo len : Nat) : BitVec len := w.extractLsb' lo len

/-- The opcode byte of a header word, bits [31:24] (R111). -/
def opByte (w : Word) : BitVec 8 := bits w 24 8

/-- What a header word is before its command's own checks: one of the seven, or rejected by name. -/
inductive HeaderKind where
  | ok (op : Opcode)
  /-- The opcode is reserved (R123). -/
  | illegalOpcode (op : BitVec 8)
  /-- A bit of `RESMASK(op)` is set (R124). -/
  | reservedBits (op : Opcode)
  deriving DecidableEq, Repr

/-- The first two checks of a header word, in the order of R110. -/
def decodeHeader (w : Word) : HeaderKind :=
  match opcodeOfByte (opByte w) with
  | none => .illegalOpcode (opByte w)
  | some op => if w &&& op.resMask = 0 then .ok op else .reservedBits op

/-! ### Header fields -/

/-- `NC`, format F bits [3:0] (R115). -/
def ncField (hdr : Word) : BitVec 4 := bits hdr 0 4
/-- `CI`, format C bits [17:16] (R116). -/
def ciField (hdr : Word) : BitVec 2 := bits hdr 16 2
/-- `HS`, format C bits [11:8] (R116). -/
def hsField (hdr : Word) : BitVec 4 := bits hdr 8 4
/-- `VS`, format C bits [7:4] (R116). -/
def vsField (hdr : Word) : BitVec 4 := bits hdr 4 4
/-- `TQ`, formats C and Q bits [3:0] (R116, R118). -/
def tqField (hdr : Word) : BitVec 4 := bits hdr 0 4
/-- `PQ`, format Q bits [7:4] (R118). -/
def pqField (hdr : Word) : BitVec 4 := bits hdr 4 4
/-- `HEIGHT`, format D bits [31:16] (R117). -/
def heightField (w : Word) : BitVec 16 := bits w 16 16
/-- `WIDTH`, format D bits [15:0] (R117). -/
def widthField (w : Word) : BitVec 16 := bits w 0 16

/-- The first 64 words of a payload. A shorter list is filled up with zero words; neither the decoder nor the parser
hands one over. -/
def payload64 (p : List Word) : Vector Word 64 :=
  ⟨⟨(List.range 64).map (fun k => p.getD k 0)⟩, by simp⟩

/-- The command that a header with opcode `op` and the payload words `p` make (R113, R121). -/
def assemble (op : Opcode) (hdr : Word) (p : List Word) : Instr :=
  match op with
  | .nop => .nop
  | .setFrame => .setFrame (ncField hdr) (heightField (p.getD 0 0)) (widthField (p.getD 0 0))
  | .setComp => .setComp (ciField hdr) (hsField hdr) (vsField hdr) (tqField hdr)
  | .loadQt => .loadQt (pqField hdr) (tqField hdr) (payload64 p)
  | .start => .start
  | .block => .block (payload64 p)
  | .finish => .finish

/-- What the head of a word stream is. -/
inductive Decoded where
  | ok (i : Instr) (rest : List Word)
  /-- The header's opcode is reserved (R123). -/
  | illegalOpcode (op : BitVec 8)
  /-- The header has a reserved bit set (R124). -/
  | reservedBits (op : Opcode)
  /-- The stream ends before the command does (spec/60_exceptions.md R262: not an error, the engine waits). -/
  | incomplete
  deriving DecidableEq, Repr

/-- Reads one command from the head of a word stream; its length is set by its opcode alone (R112, R127). -/
def decode : List Word → Decoded
  | [] => .incomplete
  | w :: rest =>
    match decodeHeader w with
    | .illegalOpcode b => .illegalOpcode b
    | .reservedBits op => .reservedBits op
    | .ok op =>
      if rest.length < op.len - 1 then .incomplete
      else .ok (assemble op w (rest.take (op.len - 1))) (rest.drop (op.len - 1))

/-! ### The encoder -/

/-- The command's opcode. -/
def Instr.opcode : Instr → Opcode
  | .nop => .nop
  | .setFrame _ _ _ => .setFrame
  | .setComp _ _ _ _ => .setComp
  | .loadQt _ _ _ => .loadQt
  | .start => .start
  | .block _ => .block
  | .finish => .finish

/-- A field's value placed at bit `lo` of a word. -/
abbrev placeField {n : Nat} (v : BitVec n) (lo : Nat) : Word := v.setWidth 32 <<< lo

/-- The header word (R111, R129). -/
def encodeHeader : Instr → Word
  | .nop => 0x00000000
  | .setFrame nc _ _ => 0x01000000 ||| placeField nc 0
  | .setComp ci hs vs tq => 0x02000000 ||| placeField ci 16 ||| placeField hs 8 ||| placeField vs 4 ||| placeField tq 0
  | .loadQt pq tq _ => 0x03000000 ||| placeField pq 4 ||| placeField tq 0
  | .start => 0x04000000
  | .block _ => 0x05000000
  | .finish => 0x06000000

/-- The payload words, in the order they are sent (R112, R117). -/
def encodePayload : Instr → List Word
  | .setFrame _ height width => [placeField height 16 ||| placeField width 0]
  | .loadQt _ _ entries => entries.toList
  | .block coefs => coefs.toList
  | .nop | .setComp _ _ _ _ | .start | .finish => []

/-- The words of a command: one header word, then its payload (R110). -/
def encode (i : Instr) : List Word := encodeHeader i :: encodePayload i

/-! ### The opcode table's numbering -/

/-- The 65 words (the longest command) of a number whose bit 0 is the least significant bit of the first word; every
bit from `nbits` up is 0 (log 16). -/
def tableWords (nbits w : Nat) : List Word :=
  (List.range 65).map (fun k => BitVec.ofNat 32 ((w % 2 ^ nbits) >>> (32 * k)))

/-- The command the decoder reads from an opcode-table number. -/
def decodeTableWord (nbits w : Nat) : Option Instr :=
  match decode (tableWords nbits w) with
  | .ok i _ => some i
  | .illegalOpcode _ | .reservedBits _ | .incomplete => none

end Sys2Proof
end

