-- ==== Sys2Proof/Machine/State.lean ====
section
/-! DEFINITION. The state of one IDCT engine, as plain data: everything spec/10_state.md gives it, and four fields of
the model's own (`params`, `draws`, `agenda`, `resp`), each named as such. -/

namespace Sys2Proof.Machine

/-- A memory of the engine: cells of `w` bits under the numbers that name them. A cell that is not listed has not been
written since reset, and has no value: what reads it takes a free value (spec/10_state.md R67). The canonical form
lists the keys in strictly rising order (`Memory.wf` in Machine/Ops.lean). `Memory 8` is a list of `Host.Cell`. -/
abbrev Memory (w : Nat) := List (Nat × BitVec w)

/-- The error causes of spec/60_exceptions.md R250, in the order of their codes. -/
inductive Cause where
  | none
  | illegalOpcode
  | reservedBits
  | sequence
  | invalidTableId
  | outOfRangeField
  | unsupportedComponentCount
  | unknownComponent
  | invalidSampling
  | invalidDimension
  | incompleteConfig
  | undefinedQt
  deriving DecidableEq, Repr

/-- `ERRINFO` (spec/10_state.md R47). -/
structure ErrInfo where
  cause : Cause
  opcode : BitVec 8
  word : BitVec 7
  deriving DecidableEq, Repr

/-- `COMPCFGc`: one component's configuration (spec/10_state.md R52). -/
structure CompCfg where
  hs : BitVec 4
  vs : BitVec 4
  tq : BitVec 4
  deriving DecidableEq, Repr

/-- `PS`, the parser state (spec/10_state.md R34). -/
inductive ParserState where
  | idle
  /-- Header `hdr` with opcode `op` and `n` of its payload words have been accepted. -/
  | payload (op : Opcode) (hdr : Word) (n : Nat)
  | halted
  deriving DecidableEq, Repr

/-- Who makes a host access: the host, or the second bus master of spec/70_reset_and_hazards.md R292. -/
inductive Master where
  | host | second
  deriving DecidableEq, Repr

/-- One host access at a device offset, `width` bits wide (spec/20_memory.md R88, R89). -/
inductive Access where
  | read (offset : Word) (width : Nat)
  | write (offset : Word) (width : Nat) (data : Word)
  deriving DecidableEq, Repr

/-- One turn of the interleaving of spec/10_state.md R30: an engine step, a host access, or a power-on reset. -/
inductive Turn where
  | engine
  | access (m : Master) (a : Access)
  | powerOn
  deriving DecidableEq, Repr

/-- What the bus answers to a completed access. -/
inductive Response where
  | readData (w : Word)
  | writeDone
  deriving DecidableEq, Repr

/-- A `CMDPORT` write that waits for room in the FIFO (spec/20_memory.md R93). -/
structure HeldWrite where
  master : Master
  data : Word
  deriving DecidableEq, Repr

structure State where
  /-- MODEL's own: the instance's parameters (spec/00_scope.md R10). No step, access or reset changes them. -/
  params : Params
  /-- `csi` (R33): the command words consumed since reset. -/
  csi : Nat
  /-- `PS` (R34). -/
  ps : ParserState
  /-- The command FIFO, head first (R35). -/
  fifo : List Word
  /-- `STG[j]`, the staging buffer, under `j` (R63). -/
  stg : Memory 32
  /-- `CMDPORT` writes that are held, oldest first (spec/20_memory.md R93). -/
  held : List HeldWrite
  /-- `CTRL.DONE_IE` (R37). -/
  doneIE : Bool
  /-- `CTRL.ERR_IE` (R37). -/
  errIE : Bool
  /-- `STATUS.DONE` (R40). -/
  done : Bool
  /-- `STATUS.ERR` (R41). -/
  err : Bool
  /-- `STATUS.FRAME_ACTIVE` (R42). -/
  frameActive : Bool
  /-- `STATUS.QT0_VALID` (R43). -/
  qt0Valid : Bool
  /-- `STATUS.QT1_VALID` (R43). -/
  qt1Valid : Bool
  /-- `STATUS.CFG_VALID` (R45). -/
  cfgValid : Bool
  /-- `STATUS.COMP0_VALID` (R46). -/
  comp0Valid : Bool
  /-- `STATUS.COMP1_VALID` (R46). -/
  comp1Valid : Bool
  /-- `STATUS.COMP2_VALID` (R46). -/
  comp2Valid : Bool
  /-- `ERRINFO` (R47). -/
  errInfo : ErrInfo
  /-- `FRAMECFG[15:0]`, the frame width `W` (R50). -/
  frameW : BitVec 16
  /-- `FRAMECFG[31:16]`, the frame height `H` (R50). -/
  frameH : BitVec 16
  /-- `NCOMP[3:0]`, the component count `NC` (R51). -/
  ncomp : BitVec 4
  /-- `COMPCFG0` (R52). -/
  comp0 : CompCfg
  /-- `COMPCFG1` (R52). -/
  comp1 : CompCfg
  /-- `COMPCFG2` (R52). -/
  comp2 : CompCfg
  /-- `GRID[15:0]` (R53). -/
  mcux : BitVec 16
  /-- `GRID[31:16]` (R53). -/
  mcuy : BitVec 16
  /-- `MAXSAMP[3:0]` (R54). -/
  hmax : BitVec 4
  /-- `MAXSAMP[7:4]` (R54). -/
  vmax : BitVec 4
  /-- `BLKTOTAL` (R55). -/
  blktotal : BitVec 32
  /-- `BLKCNT` (R56). -/
  blkcnt : BitVec 32
  /-- `QT[t][i]` under `64 × t + i` (R58). -/
  qt : Memory 16
  /-- `PLANE[c][row][col]` under `planeKey c row col` (R59). -/
  plane : Memory 8
  /-- `LASTDQ[i]` under `i`, in two's complement (R60). -/
  lastdq : Memory 32
  /-- `LASTBLK[i]` under `i` (R61). -/
  lastblk : Memory 8
  /-- `OUTM[a]` under `a` (R62). -/
  outm : Memory 8
  /-- MODEL's own: how many times a free value has been drawn. -/
  draws : Nat
  /-- MODEL's own: what happens next, in order. When nothing is left the engine goes on alone. -/
  agenda : List Turn
  /-- MODEL's own: the bus's answer to the last host access that completed. -/
  resp : Option Response
  deriving DecidableEq, Repr

/-- Why the machine has no next state. None of them is an error of the engine's own: those are next states. -/
inductive Fault where
  /-- The parser is idle, the FIFO is empty and nothing else is planned: the engine waits for the host
  (spec/70_reset_and_hazards.md R290). Raised by `engineMove`. Safe. -/
  | waiting
  /-- A command is incomplete, the FIFO is empty and nothing else is planned: "stuck" (spec/60_exceptions.md R262).
  Raised by `engineMove`. Safe. -/
  | stuck
  /-- The engine is halted by an error and nothing else is planned: "the halted state is a fault"
  (spec/60_exceptions.md R259). Raised by `engineMove`. Safe. -/
  | halted
  deriving DecidableEq, Repr

/-- What the model refuses. -/
inductive Refusal where
  /-- An instruction that has no meaning yet; raised by `exec` alone. Safe. -/
  | notModelled (mnemonic : String)
  /-- A host access that is not 32 bits wide, or whose offset is not a multiple of 4: "refused, with no step taken by the
  engine" (spec/20_memory.md R89). Raised by `accessMove`. Safe. -/
  | busError (a : Access)
  deriving DecidableEq, Repr

/-- The state after every reset (spec/10_state.md R67): every register 0, the FIFO empty, the parser idle, and no memory
cell written. The model's own fields: the open parameters, no draw yet, nothing planned, no answer yet. -/
def State.reset : State where
  params := Config.params
  csi := 0
  ps := .idle
  fifo := []
  stg := []
  held := []
  doneIE := false
  errIE := false
  done := false
  err := false
  frameActive := false
  qt0Valid := false
  qt1Valid := false
  cfgValid := false
  comp0Valid := false
  comp1Valid := false
  comp2Valid := false
  errInfo := ⟨.none, 0, 0⟩
  frameW := 0
  frameH := 0
  ncomp := 0
  comp0 := ⟨0, 0, 0⟩
  comp1 := ⟨0, 0, 0⟩
  comp2 := ⟨0, 0, 0⟩
  mcux := 0
  mcuy := 0
  hmax := 0
  vmax := 0
  blktotal := 0
  blkcnt := 0
  qt := []
  plane := []
  lastdq := []
  lastblk := []
  outm := []
  draws := 0
  agenda := []
  resp := none

end Sys2Proof.Machine
end

