-- ==== Sys2Proof/Machine/Ops.lean ====
section
/-! DEFINITION. The operations every command shares: exact arithmetic (spec/00_scope.md R14), memories, access to the
numbered registers, entering the error state (spec/60_exceptions.md R255) and returning from it, which is a reset
(R264, spec/10_state.md R67). -/

namespace Sys2Proof.Machine

/-! ### Arithmetic primitives (spec/00_scope.md R14) -/

/-- `fdiv(a, b)`, floor division for `b > 0`. -/
def fdiv (a b : Int) : Int := a / b

/-- `cdiv(a, b)`, ceiling division for `b > 0`. -/
def cdiv (a b : Nat) : Nat := (a + b - 1) / b

/-- `clamp(v, lo, hi)`. -/
def clamp (v lo hi : Int) : Int := if v < lo then lo else if v > hi then hi else v

/-! ### Memories -/

/-- The canonical form: keys strictly rising. (An unlisted cell reads as no value, so no entry can equal that.) -/
def Memory.wf {w : Nat} : Memory w → Bool
  | [] => true
  | [_] => true
  | (a, _) :: (b, y) :: m => decide (a < b) && Memory.wf ((b, y) :: m)

/-- What the cell `a` holds: nothing when it has not been written since reset. -/
def Memory.read {w : Nat} : Memory w → Nat → Option (BitVec w)
  | [], _ => none
  | (k, v) :: m, a => if k = a then some v else Memory.read m a

/-- Consecutive cells from `a` on. -/
def cellsFrom {w : Nat} (a : Nat) : List (BitVec w) → Memory w
  | [] => []
  | v :: vs => (a, v) :: cellsFrom (a + 1) vs

/-- Writes the values `vs` to the cells `a`, `a + 1`, …; every other cell keeps what it holds. -/
def Memory.write {w : Nat} (m : Memory w) (a : Nat) (vs : List (BitVec w)) : Memory w :=
  m.filter (fun c => decide (c.1 < a)) ++ cellsFrom a vs ++ m.filter (fun c => decide (a + vs.length ≤ c.1))

/-- A read that must have a value: a cell not written since reset gives the free value `index` of the draw `draw`
(spec/10_state.md R67). -/
def Memory.readOrFree {w : Nat} (m : Memory w) (a draw index : Nat) : BitVec w :=
  (m.read a).getD (Config.freeBits w draw index)

/-- Where `QT[t][i]` is kept. -/
def qtKey (t i : Nat) : Nat := 64 * t + i

/-- Where `PLANE[c][row][col]` is kept. No plane is 2^17 samples wide or high (spec/41_frame.md R171, R178), so two
samples never share a key. -/
def planeKey (c row col : Nat) : Nat := (c * 131072 + row) * 131072 + col

/-- `OUTM_SIZE` (spec/10_state.md R62). -/
def outmSize (p : Params) : Nat := 4 * cdiv (p.maxFrameW * p.maxFrameH * 3) 4

/-! ### Numbered registers -/

/-- `COMP[c]` (spec/10_state.md R52); there are three. -/
def State.comp (s : State) : Nat → CompCfg
  | 0 => s.comp0
  | 1 => s.comp1
  | 2 => s.comp2
  | _ => ⟨0, 0, 0⟩

/-- `COMPV[c]` (R46). -/
def State.compv (s : State) : Nat → Bool
  | 0 => s.comp0Valid
  | 1 => s.comp1Valid
  | 2 => s.comp2Valid
  | _ => false

/-- `QTV[t]` (R43). There are two tables, so no other id is ever loaded. -/
def State.qtv (s : State) : Nat → Bool
  | 0 => s.qt0Valid
  | 1 => s.qt1Valid
  | _ => false

/-- Writes `COMP[c]` and sets `COMPV[c]` (R46, R52). -/
def State.setComp (s : State) (c : Nat) (cfg : CompCfg) : State :=
  match c with
  | 0 => { s with comp0 := cfg, comp0Valid := true }
  | 1 => { s with comp1 := cfg, comp1Valid := true }
  | 2 => { s with comp2 := cfg, comp2Valid := true }
  | _ => s

/-- Sets `QTV[t]` (R43). -/
def State.setQtv (s : State) (t : Nat) : State :=
  match t with
  | 0 => { s with qt0Valid := true }
  | 1 => { s with qt1Valid := true }
  | _ => s

/-- The configurations of the components `c < NC`, in declared order. -/
def State.activeComps (s : State) : List CompCfg :=
  [s.comp0, s.comp1, s.comp2].take s.ncomp.toNat

/-! ### The error state, and reset -/

/-- `raise Error(cause) {OPCODE = op, WORD = j}` (spec/60_exceptions.md R255): "Nothing else changes". -/
def raiseError (cause : Cause) (op : BitVec 8) (j : Nat) (s : State) : State :=
  { s with
    err := true
    errInfo := ⟨cause, op, BitVec.ofNat 7 j⟩
    frameActive := false
    ps := .halted
    fifo := [] }

/-- Every reset (spec/10_state.md R67, spec/70_reset_and_hazards.md R290, R291). The parameters are unaffected (R291);
what the outside world does and has been told, and the count of draws, are not the engine's. A held write is completed
with its word discarded (R292). Power-on and soft reset are this one operation (log 15). -/
def resetEngine (s : State) : State :=
  { State.reset with params := s.params, draws := s.draws, agenda := s.agenda, resp := s.resp }

/-! ### The command FIFO -/

/-- After an engine step: a held `CMDPORT` write completes as soon as there is room, and is discarded if the step ended
in an error (spec/20_memory.md R93, spec/10_state.md R48). -/
def releaseHeld (s : State) : State :=
  match s.held with
  | [] => s
  | h :: hs =>
    if s.err then { s with held := [], resp := some .writeDone }
    else if s.fifo.length < s.params.fifoDepth then
      { s with fifo := s.fifo ++ [h.data], held := hs, resp := some .writeDone }
    else s

end Sys2Proof.Machine
end

