-- ==== Sys2Proof/Machine/Flags.lean ====
section
/-! DEFINITION. The flags that are computed and the register words built from fields: `STATUS` with `BUSY` and `IRQ`,
`CTRL`, `ERRINFO` and its cause codes, and the configuration registers (spec/10_state.md §3). There are no arithmetic
flags (R65). -/

namespace Sys2Proof.Machine

/-- The cause codes of spec/60_exceptions.md R250. -/
def Cause.code : Cause → BitVec 8
  | .none => 0x00
  | .illegalOpcode => 0x01
  | .reservedBits => 0x02
  | .sequence => 0x03
  | .invalidTableId => 0x04
  | .outOfRangeField => 0x05
  | .unsupportedComponentCount => 0x06
  | .unknownComponent => 0x07
  | .invalidSampling => 0x08
  | .invalidDimension => 0x09
  | .incompleteConfig => 0x0A
  | .undefinedQt => 0x0B

/-- The parser has accepted a header and waits for payload words. -/
def ParserState.pending : ParserState → Bool
  | .payload _ _ _ => true
  | .idle | .halted => false

/-- `STATUS.BUSY` (R39). -/
def State.busy (s : State) : Bool := !s.err && (!s.fifo.isEmpty || s.ps.pending)

/-- `STATUS.IRQ`, the interrupt output (R44, spec/60_exceptions.md R266). -/
def State.irq (s : State) : Bool := (s.done && s.doneIE) || (s.err && s.errIE)

/-- A word whose bit `n` is `b` and whose other bits are 0. -/
def flagAt (b : Bool) (n : Nat) : Word := if b then 1#32 <<< n else 0#32

/-- What `STATUS` reads (R38). -/
def statusWord (s : State) : Word :=
  flagAt s.busy 0 ||| flagAt s.done 1 ||| flagAt s.err 2 ||| flagAt s.frameActive 3 ||| flagAt s.qt0Valid 4 |||
  flagAt s.qt1Valid 5 ||| flagAt s.irq 6 ||| flagAt s.cfgValid 7 ||| flagAt s.comp0Valid 8 |||
  flagAt s.comp1Valid 9 ||| flagAt s.comp2Valid 10

/-- What `CTRL` reads: `SRST` and the reserved bits read 0 (R37). -/
def ctrlWord (s : State) : Word := flagAt s.doneIE 0 ||| flagAt s.errIE 1

/-- What `ERRINFO` reads (R47). -/
def errInfoWord (s : State) : Word :=
  placeField s.errInfo.word 16 ||| placeField s.errInfo.opcode 8 ||| placeField s.errInfo.cause.code 0

/-- What `CAPS` reads (R36). -/
def capsWord (s : State) : Word :=
  placeField (BitVec.ofNat 16 s.params.maxFrameH) 16 ||| placeField (BitVec.ofNat 16 s.params.maxFrameW) 0

/-- What `FIFOSTAT` reads: DEPTH and FREE (R49). -/
def fifoStatWord (s : State) : Word :=
  placeField (BitVec.ofNat 16 s.params.fifoDepth) 16 |||
  placeField (BitVec.ofNat 16 (s.params.fifoDepth - s.fifo.length)) 0

/-- What `FRAMECFG` reads (R50). -/
def frameCfgWord (s : State) : Word := placeField s.frameH 16 ||| placeField s.frameW 0

/-- What `NCOMP` reads (R51). -/
def ncompWord (s : State) : Word := placeField s.ncomp 0

/-- What `COMPCFGc` reads (R52). -/
def compCfgWord (k : CompCfg) : Word := placeField k.hs 8 ||| placeField k.vs 4 ||| placeField k.tq 0

/-- What `GRID` reads (R53). -/
def gridWord (s : State) : Word := placeField s.mcuy 16 ||| placeField s.mcux 0

/-- What `MAXSAMP` reads (R54). -/
def maxSampWord (s : State) : Word := placeField s.vmax 4 ||| placeField s.hmax 0

end Sys2Proof.Machine
end

