-- ==== Sys2Proof/Machine/Operands.lean ====
section
/-! DEFINITION. The operand forms of spec/30_encoding.md §2 and §3: what a payload word's value is, which payload words
and field values are legal, and the zigzag map that both table entries and coefficients go through
(spec/40_tables.md R142). -/

namespace Sys2Proof.Machine

/-! ### The zigzag map (spec/40_tables.md R140) -/

/-- `ZZ[k]`, the raster index of the k-th position of the zigzag scan (log 19). -/
def zzTable : List Nat :=
  [0, 1, 8, 16, 9, 2, 3, 10] ++
  [17, 24, 32, 25, 18, 11, 4, 5] ++
  [12, 19, 26, 33, 40, 48, 41, 34] ++
  [27, 20, 13, 6, 7, 14, 21, 28] ++
  [35, 42, 49, 56, 57, 50, 43, 36] ++
  [29, 22, 15, 23, 30, 37, 44, 51] ++
  [58, 59, 52, 45, 38, 31, 39, 46] ++
  [53, 60, 61, 54, 47, 55, 62, 63]

/-- `ZZINV[i]`, the zigzag index of each raster position, row by row. -/
def zzInvTable : List Nat :=
  [0, 1, 5, 6, 14, 15, 27, 28] ++
  [2, 4, 7, 13, 16, 26, 29, 42] ++
  [3, 8, 12, 17, 25, 30, 41, 43] ++
  [9, 11, 18, 24, 31, 40, 44, 53] ++
  [10, 19, 23, 32, 39, 45, 52, 54] ++
  [20, 22, 33, 38, 46, 51, 55, 60] ++
  [21, 34, 37, 47, 50, 56, 59, 61] ++
  [35, 36, 48, 49, 57, 58, 62, 63]

/-- `ZZ[k]` for `k` in 0..63. -/
def zz (k : Nat) : Nat := zzTable.getD k 0

/-- `ZZINV[i]` for `i` in 0..63. -/
def zzInv (i : Nat) : Nat := zzInvTable.getD i 0

/-- The zigzag reorderer: the raster list that has entry `k` of `e` at raster index `ZZ[k]` (R142), for 64 entries. -/
def fromZigzag {α : Type} (dflt : α) (e : List α) : List α :=
  zzInvTable.map (fun k => e.getD k dflt)

/-! ### Payload words -/

/-- A table entry's value, `w[15:0]` unsigned (spec/30_encoding.md R119). -/
def entryValue (w : Word) : BitVec 16 := bits w 0 16

/-- A coefficient's value, `sext_16(w)` (R120, R121). -/
def coefValue (w : Word) : Int := (bits w 0 16).toInt

/-- `PAYLOAD_CHECK` of `SET_FRAME` (spec/41_frame.md R162). -/
def dimensionCheck (p : Params) (width height : BitVec 16) : Option Cause :=
  if width.toNat = 0 ∨ width.toNat > p.maxFrameW ∨ height.toNat = 0 ∨ height.toNat > p.maxFrameH then
    some .invalidDimension
  else none

/-- `PAYLOAD_CHECK` of `LOAD_QT` (spec/40_tables.md R144). -/
def entryCheck (pq : BitVec 4) (w : Word) : Option Cause :=
  if pq = 0 ∧ bits w 8 24 ≠ 0 then some .outOfRangeField
  else if pq = 1 ∧ bits w 16 16 ≠ 0 then some .outOfRangeField
  else none

/-- `PAYLOAD_CHECK` of `BLOCK` (spec/42_block.md R192). -/
def coefCheck (w : Word) : Option Cause :=
  if bits w 15 17 ≠ 0 ∧ bits w 15 17 ≠ BitVec.allOnes 17 then some .outOfRangeField else none

/-- The first payload word that fails its check, with its position and cause; `j` is the first word's position. -/
def firstBad (check : Word → Option Cause) : Nat → List Word → Option (Nat × Cause)
  | _, [] => none
  | j, w :: ws =>
    match check w with
    | some c => some (j, c)
    | none => firstBad check (j + 1) ws

/-! ### Header fields -/

/-- A table id is legal when it is 0 or 1 (spec/40_tables.md R143, spec/41_frame.md R165). -/
def legalTableId (tq : BitVec 4) : Bool := decide (tq.toNat ≤ 1)

/-- A precision flag is legal when it is 0 or 1 (spec/40_tables.md R143). -/
def legalPrecision (pq : BitVec 4) : Bool := decide (pq.toNat ≤ 1)

/-- A sampling factor is legal when it is in 1..4 (spec/41_frame.md R166). -/
def legalFactor (f : BitVec 4) : Bool := decide (1 ≤ f.toNat ∧ f.toNat ≤ 4)

/-- A component count is legal when it is 1 or 3 (spec/41_frame.md R163). -/
def legalCount (nc : BitVec 4) : Bool := decide (nc.toNat = 1 ∨ nc.toNat = 3)

end Sys2Proof.Machine
end

