-- ==== Sys2Proof/Machine/Frame.lean ====
section
/-! DEFINITION. `NOP`, `SET_FRAME`, `SET_COMP` and `START`, the MCU grid and the block order (spec/41_frame.md).
A meaning is its command's `HEADER_CHECK`, then its `PAYLOAD_CHECK` of every payload word, then its `COMMIT`; the
first check that fails enters the error state (spec/30_encoding.md R110, spec/60_exceptions.md R260; log 8). Taking the words
from the FIFO and counting them in `csi` is the parser's (Machine/Parser.lean). -/

namespace Sys2Proof.Machine

open Host (Outcome)

/-! ### NOP -/

/-- `NOP` does nothing (R160). -/
def execNop (s : State) : Outcome State Fault Refusal := .next s

/-! ### SET_FRAME -/

/-- `HEADER_CHECK` of `SET_FRAME` (R161, R163). -/
def setFrameCheck (nc : BitVec 4) (s : State) : Option Cause :=
  if s.frameActive then some .sequence
  else if !legalCount nc then some .unsupportedComponentCount
  else none

/-- `COMMIT` of `SET_FRAME` (R161). -/
def commitSetFrame (nc : BitVec 4) (height width : BitVec 16) (s : State) : State :=
  { s with frameW := width, frameH := height, ncomp := nc, cfgValid := true }

/-- `SET_FRAME` (R161, R162). -/
def execSetFrame (nc : BitVec 4) (height width : BitVec 16) (s : State) : Outcome State Fault Refusal :=
  match setFrameCheck nc s with
  | some c => .next (raiseError c Opcode.setFrame.code 0 s)
  | none =>
    match dimensionCheck s.params width height with
    | some c => .next (raiseError c Opcode.setFrame.code 1 s)
    | none => .next (commitSetFrame nc height width s)

/-! ### SET_COMP -/

/-- `HEADER_CHECK` of `SET_COMP` (R165, R166, R167). -/
def setCompCheck (ci : BitVec 2) (hs vs tq : BitVec 4) (s : State) : Option Cause :=
  if s.frameActive then some .sequence
  else if ci = 3 then some .unknownComponent
  else if !legalFactor hs || !legalFactor vs then some .invalidSampling
  else if !legalTableId tq then some .invalidTableId
  else none

/-- `SET_COMP` (R165). -/
def execSetComp (ci : BitVec 2) (hs vs tq : BitVec 4) (s : State) : Outcome State Fault Refusal :=
  match setCompCheck ci hs vs tq s with
  | some c => .next (raiseError c Opcode.setComp.code 0 s)
  | none => .next (s.setComp ci.toNat ⟨hs, vs, tq⟩)

/-! ### START -/

/-- `HMAX`: the greatest horizontal factor of the components in use (R171). -/
def maxHs (comps : List CompCfg) : Nat := comps.foldl (fun m k => max m k.hs.toNat) 0

/-- `VMAX`: the greatest vertical factor of the components in use (R171). -/
def maxVs (comps : List CompCfg) : Nat := comps.foldl (fun m k => max m k.vs.toNat) 0

/-- A component's blocks in one MCU (R172). -/
def blocksOf (k : CompCfg) : Nat := k.hs.toNat * k.vs.toNat

/-- `BPM`: the blocks of one MCU (R172). -/
def blocksPerMcu (comps : List CompCfg) : Nat := (comps.map blocksOf).sum

/-- The MCUs along one axis: `cdiv(cdiv(size, factor), 8)` (R171). -/
def mcuCount (size factor : Nat) : Nat := cdiv (cdiv size factor) 8

/-- `HEADER_CHECK` of `START` (R170). -/
def startCheck (s : State) : Option Cause :=
  if s.frameActive then some .sequence
  else if !s.cfgValid || (List.range s.ncomp.toNat).any (fun c => !s.compv c) then some .incompleteConfig
  else if (List.range s.ncomp.toNat).any (fun c => !s.qtv (s.comp c).tq.toNat) then some .undefinedQt
  else none

/-- `COMMIT` of `START` (R170, R171, R172). -/
def commitStart (s : State) : State :=
  let hmax := maxHs s.activeComps
  let vmax := maxVs s.activeComps
  let mcux := mcuCount s.frameW.toNat hmax
  let mcuy := mcuCount s.frameH.toNat vmax
  { s with
    hmax := BitVec.ofNat 4 hmax
    vmax := BitVec.ofNat 4 vmax
    mcux := BitVec.ofNat 16 mcux
    mcuy := BitVec.ofNat 16 mcuy
    blktotal := BitVec.ofNat 32 (mcux * mcuy * blocksPerMcu s.activeComps)
    blkcnt := 0
    frameActive := true
    done := false }

/-- `START` (R170). -/
def execStart (s : State) : Outcome State Fault Refusal :=
  match startCheck s with
  | some c => .next (raiseError c Opcode.start.code 0 s)
  | none => .next (commitStart s)

/-! ### Block order and placement (R173 to R178) -/

/-- `OFF[c]`: the blocks of the components before `c` within an MCU (R173). -/
def componentOffset (comps : List CompCfg) (c : Nat) : Nat := blocksPerMcu (comps.take c)

/-- The component that block `j` of an MCU belongs to, and the block's number within it: the `c` with
`OFF[c] ≤ j < OFF[c] + HS[c] × VS[c]`, and `j - OFF[c]` (R177). `c` is the number of the list's first component. -/
def findComponent : List CompCfg → Nat → Nat → Nat × Nat
  | [], c, j => (c, j)
  | k :: ks, c, j => if j < blocksOf k then (c, j) else findComponent ks (c + 1) (j - blocksOf k)

/-- A component, and a block's row and column in its plane. -/
structure BlockPos where
  c : Nat
  br : Nat
  bc : Nat
  deriving DecidableEq, Repr

/-- `blockPos(n)` (R177) for the components in use, of a grid `mcux` MCUs wide (log 12: of no width too). -/
def blockPosition (comps : List CompCfg) (mcux n : Nat) : BlockPos :=
  let bpm := blocksPerMcu comps
  let m := n / bpm
  let my := m / mcux
  let mx := m - my * mcux
  let ct := findComponent comps 0 (n - m * bpm)
  let k := comps.getD ct.1 ⟨0, 0, 0⟩
  let sy := ct.2 / k.hs.toNat
  let sx := ct.2 - sy * k.hs.toNat
  ⟨ct.1, my * k.vs.toNat + sy, mx * k.hs.toNat + sx⟩

/-- `blockPos(n)` in the current frame (R177). -/
def State.blockPos (s : State) (n : Nat) : BlockPos := blockPosition s.activeComps s.mcux.toNat n

/-- `PW[c]`: the width of a component's plane in samples (R178). -/
def State.planeWidth (s : State) (c : Nat) : Nat := s.mcux.toNat * (s.comp c).hs.toNat * 8

/-- `PH[c]`: the height of a component's plane in rows (R178). -/
def State.planeHeight (s : State) (c : Nat) : Nat := s.mcuy.toNat * (s.comp c).vs.toNat * 8

end Sys2Proof.Machine
end

