-- ==== Sys2Proof/Machine/Block.lean ====
section
/-! DEFINITION. `BLOCK`: dequantization, the zigzag reorder, the exact integer inverse DCT, level shift and clamp
(spec/42_block.md). -/

namespace Sys2Proof.Machine

open Host (Outcome)

/-! ### Dequantization and reorder -/

/-- `QT[t][i]` as `BLOCK` reads it: a value for every entry, the free value of this draw for an entry that no `LOAD_QT`
has written (no frame that has started reads one, R193 and spec/10_state.md R67; log 11). -/
def qtEntry (s : State) (t i : Nat) : BitVec 16 := s.qt.readOrFree (qtKey t i) s.draws i

/-- `D` in raster order: `D[ZZ[k]] = c[k] × QT[t][ZZ[k]]`, exact integers (R193, R194). -/
def dequantize (s : State) (t : Nat) (coefs : List Word) : List Int :=
  (fromZigzag 0 (coefs.map coefValue)).zipWith (fun c i => c * ((qtEntry s t i).toNat : Int)) (List.range 64)

/-! ### The inverse DCT -/

/-- The constants `K[k][n]`, row `k` by row (R195). -/
def kTable : List (List Int) :=
  [[2896, 2896, 2896, 2896, 2896, 2896, 2896, 2896],
   [4017, 3406, 2276, 799, -799, -2276, -3406, -4017],
   [3784, 1567, -1567, -3784, -3784, -1567, 1567, 3784],
   [3406, -799, -4017, -2276, 2276, 4017, 799, -3406],
   [2896, -2896, -2896, 2896, 2896, -2896, -2896, 2896],
   [2276, -4017, 799, 3406, -3406, -799, 4017, -2276],
   [1567, -3784, 3784, -1567, -1567, 3784, -3784, 1567],
   [799, -2276, 3406, -4017, 4017, -3406, 2276, -799]]

/-- `K[k][n]` (R195). -/
def kConst (k n : Nat) : Int := (kTable.getD k []).getD n 0

/-- The sum of `f 0` to `f 7`. -/
def sum8 (f : Nat → Int) : Int := f 0 + f 1 + f 2 + f 3 + f 4 + f 5 + f 6 + f 7

/-- The row pass: `T[r][x] = Σ_u K[u][x] × D[8r + u]`, at raster index `8r + x` (R196). -/
def rowPass (d : List Int) : List Int :=
  (List.range 64).map (fun i => sum8 (fun u => kConst u (i % 8) * d.getD (8 * (i / 8) + u) 0))

/-- The column pass: `S[y][x] = Σ_v K[v][y] × T[v][x]`, at raster index `8y + x` (R196). -/
def colPass (t : List Int) : List Int :=
  (List.range 64).map (fun i => sum8 (fun v => kConst v (i / 8) * t.getD (8 * v + i % 8) 0))

/-- Rounding, level shift, clamp, in that order (R197). -/
def descale (x : Int) : Int := clamp (fdiv (x + 2 ^ 25) (2 ^ 26) + 128) 0 255

/-- `P` in raster order: the 64 samples of a dequantized block (R196, R197). -/
def blockSamples (d : List Int) : List Byte :=
  (colPass (rowPass d)).map (fun x => BitVec.ofInt 8 (descale x))

/-! ### The command -/

/-- Writes the 64 samples `p` (raster order) to the plane position of a block (R198). -/
def writeBlock (pos : BlockPos) (p : List Byte) (m : Memory 8) : Memory 8 :=
  (List.range 8).foldl
    (fun m y => m.write (planeKey pos.c (8 * pos.br + y) (8 * pos.bc)) ((p.drop (8 * y)).take 8)) m

/-- `HEADER_CHECK` of `BLOCK` (R191). -/
def blockCheck (s : State) : Option Cause :=
  if !s.frameActive || decide (s.blktotal.toNat ≤ s.blkcnt.toNat) then some .sequence else none

/-- `COMMIT` of `BLOCK` with the dequantized block `d` for the position `pos` (R190, R198, R199). -/
def storeBlock (pos : BlockPos) (d : List Int) (s : State) : State :=
  let p := blockSamples d
  { s with
    plane := writeBlock pos p s.plane
    lastdq := s.lastdq.write 0 (d.map (BitVec.ofInt 32))
    lastblk := s.lastblk.write 0 p
    blkcnt := s.blkcnt + 1
    draws := s.draws + 1 }

/-- `COMMIT` of `BLOCK` (R190): the position is that of `BLKCNT` before the increment (R198), the table that of the
block's component (R193). -/
def commitBlock (coefs : Vector Word 64) (s : State) : State :=
  let pos := s.blockPos s.blkcnt.toNat
  storeBlock pos (dequantize s (s.comp pos.c).tq.toNat coefs.toList) s

/-- `BLOCK` (R190). -/
def execBlock (coefs : Vector Word 64) (s : State) : Outcome State Fault Refusal :=
  match blockCheck s with
  | some c => .next (raiseError c Opcode.block.code 0 s)
  | none =>
    match firstBad coefCheck 1 coefs.toList with
    | some jc => .next (raiseError jc.2 Opcode.block.code jc.1 s)
    | none => .next (commitBlock coefs s)

end Sys2Proof.Machine
end

