-- ==== Sys2Proof/Machine/Reconstruct.lean ====
section
/-! DEFINITION. `FINISH`: chroma upsampling, colour conversion, crop and the output raster (spec/43_reconstruct.md). -/

namespace Sys2Proof.Machine

open Host (Outcome)

/-- The plane row or column that an output row or column takes its sample from: `fdiv(x × factor, maximum)` (R221). -/
def upsampleIndex (x factor maximum : Nat) : Nat := x * factor / maximum

/-- The key of the sample of component `c` for output pixel `(x, y)` (R221). -/
def sampleKey (s : State) (c x y : Nat) : Nat :=
  planeKey c (upsampleIndex y (s.comp c).vs.toNat s.vmax.toNat) (upsampleIndex x (s.comp c).hs.toNat s.hmax.toNat)

/-- The sample of component `c` for output pixel `(x, y)` (R221): a free value, a new one for each pixel and component,
where the plane has not been written (a complete frame reads no such sample, R221 and spec/10_state.md R67; log 11). -/
def sampleAt (s : State) (c x y : Nat) : Byte :=
  s.plane.readOrFree (sampleKey s c x y) s.draws (3 * (y * s.frameW.toNat + x) + c)

/-- A channel's clamp to a byte. -/
def toChannel (v : Int) : Byte := BitVec.ofInt 8 (clamp v 0 255)

/-- `ycc(Y, Cb, Cr)` (R222); `>> 16` is the floor shift of spec/00_scope.md R14. -/
def ycc (y cb cr : Byte) : List Byte :=
  let yv : Int := y.toNat
  let b : Int := (cb.toNat : Int) - 128
  let r : Int := (cr.toNat : Int) - 128
  [toChannel (yv + fdiv (91881 * r + 32768) 65536),
   toChannel (yv + fdiv (-22554 * b - 46802 * r + 32768) 65536),
   toChannel (yv + fdiv (116130 * b + 32768) 65536)]

/-- R, G, B of output pixel `(x, y)` (R220, R222, R223). -/
def pixel (s : State) (x y : Nat) : List Byte :=
  if s.ncomp = 3 then ycc (sampleAt s 0 x y) (sampleAt s 1 x y) (sampleAt s 2 x y)
  else [sampleAt s 0 x y, sampleAt s 0 x y, sampleAt s 0 x y]

/-- The cropped raster, `W × H` pixels in row-major order, 3 bytes a pixel (R224). -/
def raster (s : State) : List Byte :=
  (List.range (s.frameW.toNat * s.frameH.toNat)).flatMap
    (fun p => pixel s (p % s.frameW.toNat) (p / s.frameW.toNat))

/-- `HEADER_CHECK` of `FINISH` (R220). -/
def finishCheck (s : State) : Option Cause :=
  if !s.frameActive || s.blkcnt != s.blktotal then some .sequence else none

/-- `COMMIT` of `FINISH` (R220). -/
def commitFinish (s : State) : State :=
  { s with outm := s.outm.write 0 (raster s), frameActive := false, done := true, draws := s.draws + 1 }

/-- `FINISH` (R220). -/
def execFinish (s : State) : Outcome State Fault Refusal :=
  match finishCheck s with
  | some c => .next (raiseError c Opcode.finish.code 0 s)
  | none => .next (commitFinish s)

end Sys2Proof.Machine
end

