-- ==== Sys2Proof/Machine/Tables.lean ====
section
/-! DEFINITION. `LOAD_QT` (spec/40_tables.md). -/

namespace Sys2Proof.Machine

open Host (Outcome)

/-- `HEADER_CHECK` of `LOAD_QT` (R143). -/
def loadQtCheck (pq tq : BitVec 4) (s : State) : Option Cause :=
  if s.frameActive then some .sequence
  else if !legalPrecision pq then some .outOfRangeField
  else if !legalTableId tq then some .invalidTableId
  else none

/-- `COMMIT` of `LOAD_QT`: entry `k` goes to raster index `ZZ[k]` of table `TQ` (R143, R142). -/
def commitLoadQt (tq : BitVec 4) (entries : Vector Word 64) (s : State) : State :=
  { s with qt := s.qt.write (qtKey tq.toNat 0) (fromZigzag 0 (entries.toList.map entryValue)) }.setQtv tq.toNat

/-- `LOAD_QT` (R143, R144). -/
def execLoadQt (pq tq : BitVec 4) (entries : Vector Word 64) (s : State) : Outcome State Fault Refusal :=
  match loadQtCheck pq tq s with
  | some c => .next (raiseError c Opcode.loadQt.code 0 s)
  | none =>
    match firstBad (entryCheck pq) 1 entries.toList with
    | some jc => .next (raiseError jc.2 Opcode.loadQt.code jc.1 s)
    | none => .next (commitLoadQt tq entries s)

end Sys2Proof.Machine
end

