-- ==== Sys2Proof/Machine/Parser.lean ====
section
/-! DEFINITION. The engine's step up to the point where a command is complete (spec/30_encoding.md R110, R113, R127):
taking a word, reading it as a header or as a payload word by the parser state, staging it. What is then left to do,
running the command, is Machine/Step.lean's. -/

namespace Sys2Proof.Machine

/-- What a turn comes to. -/
inductive Move where
  /-- The command `i` is complete: run it in `s`. -/
  | run (i : Instr) (s : State)
  | next (s : State)
  | stop (f : Fault)
  | refuse (r : Refusal)

/-- `HEADER_CHECK(op, w)`: the command's own checks of its header. -/
def headerCheck (op : Opcode) (hdr : Word) (s : State) : Option Cause :=
  match op with
  | .nop => none
  | .setFrame => setFrameCheck (ncField hdr) s
  | .setComp => setCompCheck (ciField hdr) (hsField hdr) (vsField hdr) (tqField hdr) s
  | .loadQt => loadQtCheck (pqField hdr) (tqField hdr) s
  | .start => startCheck s
  | .block => blockCheck s
  | .finish => finishCheck s

/-- `PAYLOAD_CHECK(op, hdr, w)`: the command's check of one payload word. -/
def payloadCheck (op : Opcode) (hdr w : Word) (p : Params) : Option Cause :=
  match op with
  | .setFrame => dimensionCheck p (widthField w) (heightField w)
  | .loadQt => entryCheck (pqField hdr) w
  | .block => coefCheck w
  | .nop | .setComp | .start | .finish => none

/-- Takes the head word: "`w <- pop_head(FIFO); csi <- csi + 1`". -/
def popWord (rest : List Word) (s : State) : State := { s with fifo := rest, csi := s.csi + 1 }

/-- `STG[j] <- w` (spec/10_state.md R63). -/
def stage (j : Nat) (w : Word) (s : State) : State := { s with stg := s.stg.write j [w] }

/-- The payload of a complete command, `STG[1 .. len]`. A word that was never staged has a free value; the parser has
staged every one of them. -/
def stagedWords (len : Nat) (s : State) : List Word :=
  (List.range len).map (fun k => s.stg.readOrFree (k + 1) s.draws k)

/-- `PS <- IDLE`; reading the staging buffer counts as a draw. -/
def commandComplete (s : State) : State := { s with ps := .idle, draws := s.draws + 1 }

/-- A word taken while the parser is idle (R110, first half). The checks of a one-word command are made where the
command is run. -/
def headerMove (w : Word) (s : State) : Move :=
  match decodeHeader w with
  | .illegalOpcode b => .next (raiseError .illegalOpcode b 0 s)
  | .reservedBits op => .next (raiseError .reservedBits op.code 0 s)
  | .ok op =>
    if op.len = 1 then .run (assemble op w []) s
    else
      match headerCheck op w s with
      | some c => .next (raiseError c op.code 0 s)
      | none => .next { s with ps := .payload op w 0 }

/-- A word taken while a payload is incomplete (R110, second half). -/
def payloadMove (op : Opcode) (hdr : Word) (n : Nat) (w : Word) (s : State) : Move :=
  match payloadCheck op hdr w s.params with
  | some c => .next (raiseError c op.code (n + 1) s)
  | none =>
    let t := stage (n + 1) w s
    if n + 1 = op.len - 1 then .run (assemble op hdr (stagedWords (n + 1) t)) (commandComplete t)
    else .next { t with ps := .payload op hdr (n + 1) }

/-- One engine step (R110): enabled when the FIFO is not empty and the parser is not halted. -/
def engineMove (s : State) : Move :=
  match s.ps, s.fifo with
  | .halted, _ => .stop .halted
  | .idle, [] => .stop .waiting
  | .payload _ _ _, [] => .stop .stuck
  | .idle, w :: rest => headerMove w (popWord rest s)
  | .payload op hdr n, w :: rest => payloadMove op hdr n w (popWord rest s)

/-- An engine step is enabled (R110). -/
def engineEnabled (s : State) : Bool := !s.fifo.isEmpty && s.ps != .halted

/-! ### Placing a command to be run next -/

/-- The word of a command that decides what becomes of it in state `s`: 0 when its header fails or is all of it, else
its first payload word that fails, else its last word. -/
def decidingWord (i : Instr) (s : State) : Nat :=
  if (headerCheck i.opcode (encodeHeader i) s).isSome then 0
  else
    match firstBad (fun w => payloadCheck i.opcode (encodeHeader i) w s.params) 1 (encodePayload i) with
    | some jc => jc.1
    | none => i.opcode.len - 1

/-- The state in which all of a command's words before its deciding word have been accepted, the deciding word is at
the head of the FIFO, and the engine's turn is next (log 1). -/
def placeCommand (i : Instr) (s : State) : State :=
  let d := decidingWord i s
  { s with
    csi := s.csi + d
    ps := if d = 0 then .idle else .payload i.opcode (encodeHeader i) (d - 1)
    stg := if d = 0 then s.stg else s.stg.write 1 ((encodePayload i).take (d - 1))
    fifo := (encode i).getD d 0 :: s.fifo
    agenda := .engine :: s.agenda }

/-- The state in which a word that starts no command is taken next. -/
def placeWord (w : Word) (s : State) : State :=
  { s with ps := .idle, fifo := w :: s.fifo, agenda := .engine :: s.agenda }

end Sys2Proof.Machine
end

