-- ==== Sys2Proof/Machine/HostPort.lean ====
section
/-! DEFINITION. The host's side: the offset map, reads and writes of registers and windows, soft reset, held writes
(spec/20_memory.md §2 to §4, spec/10_state.md §3), and whose turn it is (R30). -/

namespace Sys2Proof.Machine

/-! ### The offset map (R81) -/

/-- What stands at an offset. -/
inductive Target where
  | id | caps | ctrl | status | errinfo | cmdport | fifostat | framecfg | ncomp
  | compcfg0 | compcfg1 | compcfg2 | grid | maxsamp | blktotal | blkcnt
  | qtWindow (t i : Nat)
  | dqWindow (i : Nat)
  | blkWindow (i : Nat)
  | outWindow (a : Nat)
  | reserved
  deriving DecidableEq, Repr

/-- The sixteen registers, in the order of their offsets (R81). -/
def registerMap : List Target :=
  [.id, .caps, .ctrl, .status, .errinfo, .cmdport, .fifostat, .framecfg, .ncomp,
   .compcfg0, .compcfg1, .compcfg2, .grid, .maxsamp, .blktotal, .blkcnt]

/-- The device offset space (R81), for an offset that is a multiple of 4. -/
def targetAt (p : Params) (off : Nat) : Target :=
  if off < 0x100 then registerMap.getD (off / 4) .reserved
  else if off < 0x300 then .qtWindow ((off - 0x100) / 4 / 64) ((off - 0x100) / 4 % 64)
  else if off < 0x400 then .dqWindow ((off - 0x300) / 4)
  else if off < 0x500 then .blkWindow ((off - 0x400) / 4)
  else if off < 0x01000000 then .reserved
  else if off < 0x01000000 + outmSize p then .outWindow (off - 0x01000000)
  else .reserved

/-- The windows, whose reads may draw a free value. -/
def Target.isWindow : Target → Bool
  | .qtWindow _ _ | .dqWindow _ | .blkWindow _ | .outWindow _ => true
  | .id | .caps | .ctrl | .status | .errinfo | .cmdport | .fifostat | .framecfg | .ncomp
  | .compcfg0 | .compcfg1 | .compcfg2 | .grid | .maxsamp | .blktotal | .blkcnt | .reserved => false

/-! ### Reads -/

/-- `OUTM[a]` as a window read finds it; `k` is its place in the word. -/
def outByte (s : State) (a k : Nat) : Word := ((s.outm.readOrFree (a + k) s.draws k).setWidth 32)

/-- A window word while the engine is not busy (R82, R83, R84, R100): what the last commit left there, or a free value
(log 13). -/
def idleWindowWord (s : State) : Target → Word
  | .qtWindow t i => if s.qtv t then (s.qt.readOrFree (qtKey t i) s.draws 0).setWidth 32 else Config.freeBits 32 s.draws 0
  | .dqWindow i => s.lastdq.readOrFree i s.draws 0
  | .blkWindow i => (s.lastblk.readOrFree i s.draws 0).setWidth 32
  | .outWindow a =>
    placeField (outByte s a 3) 24 ||| placeField (outByte s a 2) 16 ||| placeField (outByte s a 1) 8 ||| outByte s a 0
  | .id | .caps | .ctrl | .status | .errinfo | .cmdport | .fifostat | .framecfg | .ncomp
  | .compcfg0 | .compcfg1 | .compcfg2 | .grid | .maxsamp | .blktotal | .blkcnt | .reserved => 0

/-- A window read: an unspecified value while `STATUS.BUSY = 1` (R101). -/
def windowWord (s : State) (t : Target) : Word :=
  if s.busy then Config.freeBits 32 s.draws 0 else idleWindowWord s t

/-- What a read of a target returns (spec/10_state.md §3, R85). -/
def readTarget (s : State) : Target → Word
  | .id => 0x49444354
  | .caps => capsWord s
  | .ctrl => ctrlWord s
  | .status => statusWord s
  | .errinfo => errInfoWord s
  | .cmdport => 0
  | .fifostat => fifoStatWord s
  | .framecfg => frameCfgWord s
  | .ncomp => ncompWord s
  | .compcfg0 => compCfgWord s.comp0
  | .compcfg1 => compCfgWord s.comp1
  | .compcfg2 => compCfgWord s.comp2
  | .grid => gridWord s
  | .maxsamp => maxSampWord s
  | .blktotal => s.blktotal
  | .blkcnt => s.blkcnt
  | .qtWindow t i => windowWord s (.qtWindow t i)
  | .dqWindow i => windowWord s (.dqWindow i)
  | .blkWindow i => windowWord s (.blkWindow i)
  | .outWindow a => windowWord s (.outWindow a)
  | .reserved => 0

/-- What a host read at an offset returns. -/
def readOffset (s : State) (off : Nat) : Word := readTarget s (targetAt s.params off)

/-- A host read: no side effect (R91) but the count of draws, which is the model's own. -/
def hostRead (off : Nat) (s : State) : State :=
  { s with
    resp := some (.readData (readOffset s off))
    draws := if (targetAt s.params off).isWindow then s.draws + 1 else s.draws }

/-! ### Writes -/

/-- A write of `CTRL` (spec/10_state.md R37, spec/70_reset_and_hazards.md R291). -/
def writeCtrl (w : Word) (s : State) : State :=
  if w.getLsbD 31 then resetEngine s else { s with doneIE := w.getLsbD 0, errIE := w.getLsbD 1 }

/-- A write of `STATUS` clears DONE when bit 1 is written as 1 (R38, R40). -/
def writeStatus (w : Word) (s : State) : State := if w.getLsbD 1 then { s with done := false } else s

/-- The FIFO takes another word at once, or the word is discarded at once (R48); otherwise the write is held. -/
def portReady (s : State) : Bool := s.err || decide (s.fifo.length < s.params.fifoDepth)

/-- A write of `CMDPORT` that is not held (R48). -/
def writeCmdPort (w : Word) (s : State) : State := if s.err then s else { s with fifo := s.fifo ++ [w] }

/-- A host write (R91): three targets have an effect, every other write is ignored (R82 to R85, spec/10_state.md R57). -/
def hostWrite (m : Master) (off : Nat) (w : Word) (s : State) : State :=
  match targetAt s.params off with
  | .ctrl => { writeCtrl w s with resp := some .writeDone }
  | .status => { writeStatus w s with resp := some .writeDone }
  | .cmdport =>
    if portReady s then { writeCmdPort w s with resp := some .writeDone }
    else { s with held := s.held ++ [⟨m, w⟩] }
  | .id | .caps | .errinfo | .fifostat | .framecfg | .ncomp | .compcfg0 | .compcfg1 | .compcfg2
  | .grid | .maxsamp | .blktotal | .blkcnt | .qtWindow _ _ | .dqWindow _ | .blkWindow _ | .outWindow _ | .reserved =>
    { s with resp := some .writeDone }

/-! ### Turns -/

/-- The only legal host access is 32 bits wide at a multiple of 4 (R88). -/
def Access.legal : Access → Bool
  | .read off width => width == 32 && off.toNat % 4 == 0
  | .write off width _ => width == 32 && off.toNat % 4 == 0

/-- A host access: performed, or refused (R89, log 9). -/
def accessMove (m : Master) (a : Access) (s : State) : Move :=
  if a.legal then
    match a with
    | .read off _ => .next (hostRead off.toNat s)
    | .write off _ w => .next (hostWrite m off.toNat w s)
  else .refuse (.busError a)

/-- The master has a write that is held, so its next access is not performed yet (R96). -/
def holds (m : Master) (s : State) : Bool := s.held.any (fun h => h.master == m)

/-- An engine step that runs no command, and the held write it lets complete. -/
def engineTurn (s : State) : Move :=
  match engineMove s with
  | .next t => .next (releaseHeld t)
  | .run i t => .run i t
  | .stop f => .stop f
  | .refuse r => .refuse r

/-- What happens next (R30): the first turn of the agenda, or an engine step when the agenda is empty or its next access
must wait for a held write. An engine's turn passes when no engine step is enabled (log 5). -/
def nextMove (s : State) : Move :=
  match s.agenda with
  | [] => engineTurn s
  | .engine :: ts => if engineEnabled s then engineTurn { s with agenda := ts } else .next { s with agenda := ts }
  | .access m a :: ts => if holds m s then engineTurn s else accessMove m a { s with agenda := ts }
  | .powerOn :: ts => .next (resetEngine { s with agenda := ts })

end Sys2Proof.Machine
end

