-- ==== Sys2Proof/Machine/Dispatch.lean ====
section
/-! DEFINITION. One arm per constructor of `Instr`: a command's meaning, in a state whose words of the command have been
taken from the FIFO. -/

namespace Sys2Proof.Machine

open Host (Outcome)

def exec (i : Instr) (s : State) : Host.Outcome State Fault Refusal :=
  match i with
  | .nop => Sys2Proof.Machine.execNop s
  | .setFrame nc height width => Sys2Proof.Machine.execSetFrame nc height width s
  | .setComp ci hs vs tq => Sys2Proof.Machine.execSetComp ci hs vs tq s
  | .loadQt pq tq entries => Sys2Proof.Machine.execLoadQt pq tq entries s
  | .start => Sys2Proof.Machine.execStart s
  | .block coefs => Sys2Proof.Machine.execBlock coefs s
  | .finish => Sys2Proof.Machine.execFinish s

end Sys2Proof.Machine
end

