-- ==== Sys2Proof/Machine/Step.lean ====
section
/-! DEFINITION. One step of the machine: one engine step or one access of the outside world (spec/10_state.md R30). -/

namespace Sys2Proof.Machine

open Host (Outcome)

/-- After a command has run, a held write may complete (spec/20_memory.md R93). -/
def afterEngine (o : Outcome State Fault Refusal) : Outcome State Fault Refusal :=
  match o with
  | .next s => .next (releaseHeld s)
  | .fault f => .fault f
  | .refused r => .refused r

/-- One step. -/
def step (s : State) : Outcome State Fault Refusal :=
  match nextMove s with
  | .run i t => afterEngine (exec i t)
  | .next t => .next t
  | .stop f => .fault f
  | .refuse r => .refused r

/-- `s` with the opcode-table instruction `w` placed so that the very next step runs it (log 1). -/
def State.withFetchWord (s : State) (nbits w : Nat) : State :=
  match decodeTableWord nbits w with
  | some i => placeCommand i s
  | none => placeWord ((tableWords nbits w).getD 0 0) s

end Sys2Proof.Machine
end

