-- ==== Sys2Proof/Safety.lean ====
section
/-! DEFINITION. What holds of every state a run reaches (the spec's whole-machine rules, as decidable predicates), the
end of a run (spec/60_exceptions.md R271), and the host's duties (R270). -/

namespace Sys2Proof.Machine

/-- Every key of a memory lies in `lo .. hi - 1`. -/
def Memory.keysIn {w : Nat} (m : Memory w) (lo hi : Nat) : Bool := m.all (fun c => decide (lo ≤ c.1) && decide (c.1 < hi))

/-- The memories are in canonical form, and hold no cell outside the sizes of spec/20_memory.md R80. -/
abbrev State.MemoryOk (s : State) : Prop :=
  s.qt.wf = true ∧ s.plane.wf = true ∧ s.lastdq.wf = true ∧ s.lastblk.wf = true ∧ s.outm.wf = true ∧ s.stg.wf = true ∧
  s.qt.keysIn 0 128 = true ∧ s.lastdq.keysIn 0 64 = true ∧ s.lastblk.keysIn 0 64 = true

/-- The accepted payload words are staged and each of them passes its check (spec/30_encoding.md R113). -/
def stagedOk (op : Opcode) (hdr : Word) (n : Nat) (s : State) : Bool :=
  (List.range n).all (fun j =>
    match s.stg.read (j + 1) with
    | some w => payloadCheck op hdr w s.params == none
    | none => false)

/-- `PAYLOAD(op, hdr, n)` only with an accepted header and `n < LEN(op) - 1` accepted words (spec/10_state.md R34). -/
def payloadOk (s : State) : Bool :=
  match s.ps with
  | .payload op hdr n =>
    decodeHeader hdr == .ok op && decide (n < op.len - 1) && headerCheck op hdr s == none && stagedOk op hdr n s
  | .idle | .halted => true

/-- The command port and the error state: parameters legal, words staged in `STG[1..64]` only (R63), the FIFO within its depth (R35), `ERR` exactly when halted
(R41), nothing queued or held and no frame open while halted (spec/60_exceptions.md R255), `ERRINFO` written by an error
only (R47), a write held only while the FIFO is full, one for each master at most (spec/20_memory.md R93, R96). -/
abbrev State.PortOk (s : State) : Prop :=
  s.params.Legal ∧ s.fifo.length ≤ s.params.fifoDepth ∧
  (s.err = true ↔ s.ps = .halted) ∧
  (s.err = true → s.fifo = [] ∧ s.held = [] ∧ s.frameActive = false ∧ s.errInfo.cause ≠ .none) ∧
  (s.err = false → s.errInfo = ⟨.none, 0, 0⟩) ∧
  (s.held ≠ [] → s.fifo.length = s.params.fifoDepth) ∧
  (s.held.map HeldWrite.master).Nodup ∧
  s.stg.keysIn 1 65 = true ∧
  payloadOk s = true

/-- A component's configuration is the reset value or legal (spec/41_frame.md R165, R166). -/
def compOk (valid : Bool) (k : CompCfg) : Bool :=
  if valid then legalFactor k.hs && legalFactor k.vs && legalTableId k.tq else k == ⟨0, 0, 0⟩

/-- Table `t` has all of its 64 entries if it is valid, and none if not (spec/10_state.md R43, R58). -/
def tableOk (s : State) (t : Nat) : Bool :=
  (List.range 64).all (fun i => (s.qt.read (qtKey t i)).isSome == s.qtv t)

/-- The configuration registers hold reset values or accepted ones (spec/41_frame.md R161 to R166). -/
abbrev State.ConfigOk (s : State) : Prop :=
  (s.cfgValid = true →
    legalCount s.ncomp = true ∧ dimensionCheck s.params s.frameW s.frameH = none) ∧
  (s.cfgValid = false → s.frameW = 0 ∧ s.frameH = 0 ∧ s.ncomp = 0) ∧
  compOk s.comp0Valid s.comp0 = true ∧ compOk s.comp1Valid s.comp1 = true ∧ compOk s.comp2Valid s.comp2 = true ∧
  tableOk s 0 = true ∧ tableOk s 1 = true

/-- Block `n`'s 64 samples have been written (spec/42_block.md R198). -/
def blockWritten (s : State) (n : Nat) : Bool :=
  (List.range 8).all (fun y => (List.range 8).all (fun x =>
    (s.plane.read (planeKey (s.blockPos n).c (8 * (s.blockPos n).br + y) (8 * (s.blockPos n).bc + x))).isSome))

/-- Every written sample lies in a plane that a frame `SET_FRAME` accepts can have (spec/10_state.md R59): there are three
components, and a plane exceeds the frame by less than one MCU, which is at most 32 samples (spec/41_frame.md R171, R178).
Samples of earlier frames stay, so the bound is of the frame maxima and not of the present frame. -/
def planeOk (s : State) : Bool :=
  s.plane.all (fun c =>
    decide (c.1 / 131072 / 131072 < 3) && decide (c.1 / 131072 % 131072 < s.params.maxFrameH + 32) &&
      decide (c.1 % 131072 < s.params.maxFrameW + 32))

/-- The frame: `BLKCNT` never exceeds `BLKTOTAL` (R56); `OUTM` is written inside its size only (R62), `PLANE` inside the planes (R59);
inside a frame the configuration is complete, `DONE` is 0, the
grid registers are those of R171 and R172, and the blocks counted so far have been written. -/
abbrev State.FrameOk (s : State) : Prop :=
  s.blkcnt.toNat ≤ s.blktotal.toNat ∧
  s.outm.keysIn 0 (outmSize s.params) = true ∧
  (s.frameActive = true →
    s.done = false ∧ s.cfgValid = true ∧
    (List.range s.ncomp.toNat).all (fun c => s.compv c && s.qtv (s.comp c).tq.toNat) = true ∧
    s.hmax.toNat = maxHs s.activeComps ∧ s.vmax.toNat = maxVs s.activeComps ∧
    s.mcux.toNat = mcuCount s.frameW.toNat (maxHs s.activeComps) ∧
    s.mcuy.toNat = mcuCount s.frameH.toNat (maxVs s.activeComps) ∧
    s.blktotal.toNat = s.mcux.toNat * s.mcuy.toNat * blocksPerMcu s.activeComps ∧
    (List.range s.blkcnt.toNat).all (blockWritten s) = true) ∧
  planeOk s = true

/-- All of it. -/
abbrev State.Inv (s : State) : Prop := s.MemoryOk ∧ s.PortOk ∧ s.ConfigOk ∧ s.FrameOk

/-! ### The error state, and what a command must pass -/

/-- The state an error leaves, as spec/60_exceptions.md R255 lists it: everything not named keeps its value. -/
abbrev errorState (s : State) (cause : Cause) (op : BitVec 8) (word : BitVec 7) : State :=
  { s with err := true, errInfo := ⟨cause, op, word⟩, frameActive := false, ps := .halted, fifo := [] }

/-- The command passes its header check and every payload check in `s` (spec/30_encoding.md R110). -/
abbrev State.accepts (s : State) (i : Instr) : Prop :=
  headerCheck i.opcode (encodeHeader i) s = none ∧
  ∀ w ∈ encodePayload i, payloadCheck i.opcode (encodeHeader i) w s.params = none

/-! ### Whose turn it is -/

/-- The engine is next, and `ts` is planned after its step: nothing is planned (the engine goes on alone), its turn is
planned, or the next access waits for its master's held write and stays planned (log 5). -/
abbrev State.engineNext (s : State) (ts : List Turn) : Prop :=
  (s.agenda = [] ∧ ts = []) ∨ s.agenda = .engine :: ts ∨
    ∃ m a us, s.agenda = .access m a :: us ∧ holds m s = true ∧ ts = s.agenda

/-! ### The end of a run (R271) -/

/-- A decode has ended successfully: a read of `STATUS` now returns `DONE = 1`, `ERR = 0`, `BUSY = 0`. -/
def State.succeeded (s : State) : Bool := s.done && !s.err && !s.busy

/-- A decode has ended in failure: a read of `STATUS` now returns `ERR = 1`; the cause is in `ERRINFO`. -/
def State.failed (s : State) : Bool := s.err

/-- The image of a successful decode: byte `a` of `OUTM`, for `a < 3 × W × H`. -/
def State.imageByte (s : State) (a : Nat) : Option Byte :=
  if a < 3 * s.frameW.toNat * s.frameH.toNat then s.outm.read a else none

/-- The run stops in this state, where neither condition holds: nothing is planned and no engine step is enabled. That
is a command cut short (R262), and also a host that ends with too few blocks, without `FINISH` or before `START`. -/
def State.hangs (s : State) : Bool := s.agenda.isEmpty && !engineEnabled s && !s.succeeded && !s.failed

/-- The run from `s` reaches `t`. -/
abbrev State.reaches (s t : State) : Prop := ∃ k, Host.Core.run Sys2Proof.core k s = .next t

/-- The run from `s` ends successfully. (`DONE` may be left from an earlier frame until `START` commits,
spec/70_reset_and_hazards.md R302; a run of one frame is read from there on.) -/
abbrev State.runSucceeds (s : State) : Prop := ∃ t, s.reaches t ∧ t.succeeded = true

/-- The run from `s` ends in failure. -/
abbrev State.runFails (s : State) : Prop := ∃ t, s.reaches t ∧ t.failed = true

/-- "A run that reaches neither condition is a hang", whether it stops or goes on for ever. -/
abbrev State.runHangs (s : State) : Prop := ∀ t, s.reaches t → t.succeeded = false ∧ t.failed = false

/-! ### The host's duties (R270)

The engine has an answer to the breach of each duty, and `step` gives it: a refused access, an error, a wait that does
not end. So the duties are no part of `step` but premises on what the host plans and sends, in `State.HostDuties`
(log 20). -/

/-- The duty on the form of accesses: aligned, 32 bits (R88). -/
def Turn.dutiful : Turn → Bool
  | .engine | .powerOn => true
  | .access _ a => a.legal

/-- A turn that resets the engine: power-on, or a write of `CTRL` with bit 31 set (spec/70_reset_and_hazards.md R290,
R291). -/
def Turn.resets : Turn → Bool
  | .engine => false
  | .powerOn => true
  | .access _ (.read _ _) => false
  | .access _ (.write off width w) => width == 32 && off == 0x008 && w.getLsbD 31

/-- The word a turn writes to `CMDPORT`, if it does. -/
def Turn.portWord : Turn → Option Word
  | .engine | .powerOn | .access _ (.read _ _) => none
  | .access _ (.write off width w) => if width = 32 ∧ off = 0x014 then some w else none

/-- The command words that are on their way to the parser before the next reset: queued, held, and planned. -/
def State.pendingWords (s : State) : List Word :=
  s.fifo ++ s.held.map HeldWrite.data ++ (s.agenda.takeWhile (fun t => !t.resets)).filterMap Turn.portWord

/-- When a host that keeps its duties sends a command with this opcode, in terms of the state the command finds: no
command after an error and before a reset; configuration outside a frame; `START` with every table loaded that a
component in use names (one that no `SET_COMP` has configured names none); a `BLOCK` only while one is missing; `FINISH` after the last. That `START` is sent inside a frame, or
with the configuration incomplete, is a liberty ("send it at any time"). -/
def dutifulCommand (op : Opcode) (s : State) : Bool :=
  !s.err &&
    match op with
    | .nop => true
    | .setFrame | .setComp | .loadQt => !s.frameActive
    | .start => (List.range s.ncomp.toNat).all (fun c => !s.compv c || s.qtv (s.comp c).tq.toNat)
    | .block => s.frameActive && decide (s.blkcnt.toNat < s.blktotal.toNat)
    | .finish => s.frameActive && s.blkcnt == s.blktotal

/-- "In the order of rule R176": block number `BLKCNT` carries the coefficients that the image has at its position. -/
def blockInOrder (image : BlockPos → Vector Word 64) (i : Instr) (s : State) : Bool :=
  match i with
  | .block coefs => coefs == image (s.blockPos s.blkcnt.toNat)
  | .nop | .setFrame _ _ _ | .setComp _ _ _ _ | .loadQt _ _ _ | .start | .finish => true

/-- A host that keeps its duties sends these commands, from state `s` on, each found in the state the ones before it
leave. `image f` is what the host has to send of frame number `f`; `f` is the number of the present or next frame. At the
end no frame is left open: exactly `BLKTOTAL` blocks and then `FINISH` have been sent, or an error has ended the frame. -/
def dutifulCommands (image : Nat → BlockPos → Vector Word 64) : Nat → List Instr → State → Bool
  | _, [], s => !s.frameActive
  | f, i :: is, s =>
    dutifulCommand i.opcode s && blockInOrder (image f) i s &&
      match exec i s with
      | .next t => dutifulCommands image (if i.opcode = .finish then f + 1 else f) is t
      | .fault _ | .refused _ => false

/-- The duties of R270, as premises on a state between two commands and on what the host plans up to its next reset
(after which it begins anew): accesses of the one legal form; the words sent are whole commands, so each `BLOCK` has
exactly 64 payload words; and the commands are those a dutiful host sends. Two duties need no premise: accesses in
program order are what `nextMove` performs (spec/20_memory.md R96), and a read of a window while `BUSY = 1` gets a draw
(R101), which the host may accept. -/
abbrev State.HostDuties (s : State) (image : Nat → BlockPos → Vector Word 64) (is : List Instr) : Prop :=
  s.agenda.all Turn.dutiful = true ∧ s.ps.pending = false ∧ s.pendingWords = is.flatMap encode ∧
    dutifulCommands image 0 is s = true

end Sys2Proof.Machine
end

