-- ==== Sys2Proof/WellFormed.lean ====
section
/-! DEFINITION. The commands whose operand fields are all legal (spec/30_encoding.md R125, R128), as far as the command
alone decides it: the frame state, the configuration and the frame maxima are not looked at. The engine decodes a
command that is not well-formed too, and answers it with the error its rule names. -/

namespace Sys2Proof

/-- A `LOAD_QT` entry word has no bit above its precision's width (spec/40_tables.md R144). -/
def entryWordLegal (pq : BitVec 4) (w : Word) : Bool :=
  if pq = 0 then w >>> 8 == 0 else w >>> 16 == 0

/-- A `BLOCK` coefficient word is a sign-extended 16-bit value (spec/42_block.md R192). -/
def coefWordLegal (w : Word) : Bool := w >>> 15 == 0 || w >>> 15 == 0x1FFFF

/-- A sampling factor is in 1..4 (spec/41_frame.md R166). -/
def factorLegal (f : BitVec 4) : Bool := 1 ≤ f.toNat && f.toNat ≤ 4

/-- A table id is 0 or 1 (spec/40_tables.md R143, spec/41_frame.md R165). -/
def tableIdLegal (tq : BitVec 4) : Bool := tq == 0 || tq == 1

/-- Every operand field of the command is legal. -/
def Instr.wf : Instr → Bool
  | .nop => true
  | .setFrame nc height width => (nc == 1 || nc == 3) && height != 0 && width != 0
  | .setComp ci hs vs tq => ci != 3 && factorLegal hs && factorLegal vs && tableIdLegal tq
  | .loadQt pq tq entries => (pq == 0 || pq == 1) && tableIdLegal tq && entries.toList.all (entryWordLegal pq)
  | .start => true
  | .block coefs => coefs.toList.all coefWordLegal
  | .finish => true

end Sys2Proof
end

