-- ==== Sys2Proof/Certificates/Slice0/Obligations.lean ====
section
/-! DEFINITION. The statements for the provers, from the numbered rules of spec/. -/

open Sys2Proof Sys2Proof.Machine

/-! ### Encoding (spec/30_encoding.md) -/

/-- Words written out from the encodings of R114 to R122 (spec/95_test_vectors.md §3 and §7) decode to what they stand
for, or are rejected by name. -/
def Obligations.WrittenWordsDecode : Prop :=
  decode [0x00000000] = .ok .nop [] ∧
  decode [0x01000003, 0x023003DE] = .ok (.setFrame 3 560 990) [] ∧
  decode [0x02000220] = .ok (.setComp 0 2 2 0) [] ∧
  decode [0x02020431] = .ok (.setComp 2 4 3 1) [] ∧
  decode (0x03000010 :: List.replicate 64 0x12C) = .ok (.loadQt 1 0 (payload64 (List.replicate 64 0x12C))) [] ∧
  decode [0x04000000] = .ok .start [] ∧
  decode (0x05000000 :: 0xFFFFFF60 :: List.replicate 63 0) =
    .ok (.block (payload64 (0xFFFFFF60 :: List.replicate 63 0))) [] ∧
  decode [0x06000000] = .ok .finish [] ∧
  decode [0x07000000] = .illegalOpcode 0x07 ∧
  decode [0x02001110] = .reservedBits .setComp ∧
  decode [0x01000001] = .incomplete

/-- Decode and encode agree: every command, with every operand at every value its field admits, is read back from its
words, and the words after it are left. -/
def Obligations.DecodeOfEncodeIsIdentity : Prop :=
  ∀ (i : Instr) (rest : List Word), decode (encode i ++ rest) = .ok i rest

/-- Each stream of words has one reading: what decodes to a command is that command's encoding. -/
def Obligations.EncodeOfDecodeIsIdentity : Prop :=
  ∀ (ws : List Word) (i : Instr) (rest : List Word), decode ws = .ok i rest → encode i ++ rest = ws

/-- R122: a header word selects the command whose row has `(w and MASK) = MATCH`; the seven rows, and `RESMASK`. -/
def Obligations.HeaderWordSelectsItsRow : Prop :=
  (∀ w : Word,
    (decodeHeader w = .ok .nop ↔ w &&& 0xFFFFFFFF = 0x00000000) ∧
    (decodeHeader w = .ok .setFrame ↔ w &&& 0xFFFFFFF0 = 0x01000000) ∧
    (decodeHeader w = .ok .setComp ↔ w &&& 0xFFFCF000 = 0x02000000) ∧
    (decodeHeader w = .ok .loadQt ↔ w &&& 0xFFFFFF00 = 0x03000000) ∧
    (decodeHeader w = .ok .start ↔ w &&& 0xFFFFFFFF = 0x04000000) ∧
    (decodeHeader w = .ok .block ↔ w &&& 0xFFFFFFFF = 0x05000000) ∧
    (decodeHeader w = .ok .finish ↔ w &&& 0xFFFFFFFF = 0x06000000)) ∧
  Opcode.nop.resMask = 0x00FFFFFF ∧ Opcode.setFrame.resMask = 0x00FFFFF0 ∧ Opcode.setComp.resMask = 0x00FCF000 ∧
  Opcode.loadQt.resMask = 0x00FFFF00 ∧ Opcode.start.resMask = 0x00FFFFFF ∧ Opcode.block.resMask = 0x00FFFFFF ∧
  Opcode.finish.resMask = 0x00FFFFFF

/-- R112: a command's length is set by its opcode alone. -/
def Obligations.CommandLengthFromOpcode : Prop :=
  (∀ (ws : List Word) (i : Instr) (rest : List Word), decode ws = .ok i rest →
    ws.length = i.opcode.len + rest.length) ∧
  Opcode.nop.len = 1 ∧ Opcode.setFrame.len = 2 ∧ Opcode.setComp.len = 1 ∧ Opcode.loadQt.len = 65 ∧
  Opcode.start.len = 1 ∧ Opcode.block.len = 65 ∧ Opcode.finish.len = 1

/-- R123 and R124: a word taken as a header with a reserved opcode halts the engine with ILLEGAL_OPCODE and that opcode
value; one with a legal opcode and a reserved bit set, with RESERVED_BITS. A held write completes and its word is
discarded. -/
def Obligations.RejectedHeadersHalt : Prop :=
  ∀ (s : State) (w : Word) (rest : List Word),
    s.agenda = [] → s.ps = .idle → s.fifo = w :: rest →
    let taken := { s with
      csi := s.csi + 1, held := [], resp := if s.held = [] then s.resp else some .writeDone }
    (7 ≤ (w.extractLsb' 24 8).toNat →
      step s = .next (errorState taken .illegalOpcode (w.extractLsb' 24 8) 0)) ∧
    (∀ op : Opcode, w.extractLsb' 24 8 = op.code → w &&& op.resMask ≠ 0 →
      step s = .next (errorState taken .reservedBits op.code 0))

/-- R120: the legal coefficient words are exactly the two's-complement encodings of -32768..32767, and the value of a
legal word is that integer. -/
def Obligations.CoefficientWordLegality : Prop :=
  ∀ w : Word,
    (coefCheck w = none ↔ ∃ v : Int, -32768 ≤ v ∧ v ≤ 32767 ∧ w = BitVec.ofInt 32 v) ∧
    (coefCheck w ≠ none → coefCheck w = some .outOfRangeField) ∧
    (∀ v : Int, -32768 ≤ v → v ≤ 32767 → coefValue (BitVec.ofInt 32 v) = v)

/-- R144: an entry word is legal below 256 for PQ = 0 and below 65536 for PQ = 1; any other fails with
OUT_OF_RANGE_FIELD. -/
def Obligations.EntryWordLegality : Prop :=
  ∀ w : Word,
    (entryCheck 0 w = if w.toNat < 256 then none else some .outOfRangeField) ∧
    (entryCheck 1 w = if w.toNat < 65536 then none else some .outOfRangeField) ∧
    (w.toNat < 65536 → (entryValue w).toNat = w.toNat)

/-- R125, R128: a command is well-formed exactly when its own fields and payload words are legal: what passes all checks
in some state is well-formed, and a well-formed command that the frame state, the frame maxima and the configuration
admit passes them all. -/
def Obligations.WellFormedCommandsPass : Prop :=
  ∀ (i : Instr) (s : State),
    (s.accepts i → i.wf = true) ∧
    (i.wf = true →
      match i with
      | .nop => s.accepts i
      | .setFrame _ height width =>
        s.frameActive = false → width.toNat ≤ s.params.maxFrameW → height.toNat ≤ s.params.maxFrameH → s.accepts i
      | .setComp _ _ _ _ | .loadQt _ _ _ => s.frameActive = false → s.accepts i
      | .start =>
        s.frameActive = false → s.cfgValid = true →
          (∀ c, c < s.ncomp.toNat → s.compv c = true ∧ s.qtv (s.comp c).tq.toNat = true) → s.accepts i
      | .block _ => s.frameActive = true → s.blkcnt.toNat < s.blktotal.toNat → s.accepts i
      | .finish => s.frameActive = true → s.blkcnt = s.blktotal → s.accepts i)

/-! ### The engine step (spec/30_encoding.md R110, R113) -/

/-- A step runs the decoded command: a one-word command in the step that takes its header, another command in the step
that takes its last payload word, with its words taken and counted and the parser idle again; `ts` is what is planned
after the engine's step (log 5). In the second clause the count of draws, and the free value of a word that was never
staged, are the model's choice (log 11). -/
def Obligations.CompleteCommandIsRun : Prop :=
  (∀ (s : State) (ts : List Turn) (w : Word) (rest : List Word) (op : Opcode),
    s.engineNext ts → s.ps = .idle → s.fifo = w :: rest → decodeHeader w = .ok op → op.len = 1 →
    step s = afterEngine (exec (assemble op w []) { s with agenda := ts, fifo := rest, csi := s.csi + 1 })) ∧
  (∀ (s : State) (ts : List Turn) (op : Opcode) (hdr : Word) (n : Nat) (w : Word) (rest : List Word),
    s.engineNext ts → s.ps = .payload op hdr n → s.fifo = w :: rest → n + 2 = op.len →
    payloadCheck op hdr w s.params = none →
    step s = afterEngine (exec
      (assemble op hdr (stagedWords (n + 1) (stage (n + 1) w { s with fifo := rest, csi := s.csi + 1 })))
      { s with
        agenda := ts, fifo := rest, csi := s.csi + 1, ps := .idle, stg := s.stg.write (n + 1) [w],
        draws := s.draws + 1 }))

/-- The word steps of R110 refine the meaning of a command: from an idle parser with the command's words at the head of
the FIFO, the steps up to the word that decides come to `exec` of the command. A command that passes its checks takes
all of its words, leaves the words after it, and has its payload staged. -/
def Obligations.WordStepsRunOneCommand : Prop :=
  ∀ (i : Instr) (rest : List Word) (s : State),
    s.ps = .idle → s.agenda = [] → s.held = [] → s.fifo = encode i ++ rest →
    ∃ t : State,
      Host.Core.run Sys2Proof.core (decidingWord i s + 1) s = exec i t ∧
      t = { s with
        csi := s.csi + decidingWord i s + 1, ps := t.ps, fifo := t.fifo, stg := t.stg, draws := t.draws } ∧
      (s.accepts i →
        decidingWord i s + 1 = i.opcode.len ∧ t.ps = .idle ∧ t.fifo = rest ∧
        ∀ j, 1 ≤ j → j < i.opcode.len → t.stg.read j = (encodePayload i)[j - 1]?)

/-- The model's own convention (log 1): a command placed to be run next is run by the very next step. -/
def Obligations.PlacedCommandRunsNext : Prop :=
  ∀ (i : Instr) (s : State), ∃ t : State,
    step (placeCommand i s) = afterEngine (exec i t) ∧
    t = { s with
      csi := s.csi + decidingWord i s + 1, ps := t.ps, fifo := t.fifo, stg := t.stg, draws := t.draws }

/-- R110, R33: an engine step exists exactly when the FIFO is not empty and the parser is not halted; it takes one word
and adds one to `csi`. R271: a run that stops where neither end condition holds is a hang. That a planned engine's turn
with no enabled step passes is the model's choice (log 5), and so is what the machine answers where nothing can happen
(log 7). -/
def Obligations.EngineStepTakesOneWord : Prop :=
  ∀ s : State,
    (∀ ts w rest, s.engineNext ts → s.fifo = w :: rest → s.ps ≠ .halted →
      ∃ t, step s = .next t ∧ t.csi = s.csi + 1 ∧ t.agenda = ts ∧
        (t.err = false → ∃ more, t.fifo = rest ++ more ∧ more.length ≤ 1)) ∧
    (∀ ts, s.agenda = .engine :: ts → s.fifo = [] ∨ s.ps = .halted → step s = .next { s with agenda := ts }) ∧
    (s.agenda = [] →
      (s.ps = .halted → step s = .fault .halted) ∧
      (s.fifo = [] → s.ps = .idle → step s = .fault .waiting) ∧
      (∀ op hdr n, s.fifo = [] → s.ps = .payload op hdr n → step s = .fault .stuck) ∧
      (s.hangs = true ↔ (∃ f, step s = .fault f) ∧ s.succeeded = false ∧ s.failed = false)) ∧
    (s.hangs = true → s.runHangs)

/-- R113: a payload word before the last is only staged, or it fails its check and the command does not commit. -/
def Obligations.PayloadWordStagedOrRejected : Prop :=
  ∀ (s : State) (op : Opcode) (hdr : Word) (n : Nat) (w : Word) (rest : List Word),
    s.agenda = [] → s.ps = .payload op hdr n → s.fifo = w :: rest →
    (s.held = [] → payloadCheck op hdr w s.params = none → n + 2 < op.len →
      ∃ t, step s = .next t ∧
        t = { s with csi := s.csi + 1, fifo := rest, ps := .payload op hdr (n + 1), stg := t.stg } ∧
        t.stg.read (n + 1) = some w ∧ ∀ j, j ≠ n + 1 → t.stg.read j = s.stg.read j) ∧
    (∀ c, payloadCheck op hdr w s.params = some c →
      step s = .next (errorState { s with
          csi := s.csi + 1, held := [], resp := if s.held = [] then s.resp else some .writeDone }
        c op.code (BitVec.ofNat 7 (n + 1))))

/-! ### NOP, SET_FRAME, SET_COMP, START (spec/41_frame.md) -/

/-- R160: `NOP` does nothing, in every state; any other word with its opcode fails with RESERVED_BITS. -/
def Obligations.NopDoesNothing : Prop :=
  (∀ s : State, exec .nop s = .next s) ∧
  (∀ (s : State) (rest : List Word), s.agenda = [] → s.held = [] → s.ps = .idle → s.fifo = 0x00000000 :: rest →
    step s = .next { s with csi := s.csi + 1, fifo := rest }) ∧
  (∀ w : Word, w.extractLsb' 24 8 = 0x00 → w ≠ 0x00000000 → decodeHeader w = .reservedBits .nop)

/-- R161, R162: the outcomes of `SET_FRAME` in the order of its checks, and its commit. -/
def Obligations.SetFrameOutcome : Prop :=
  ∀ (nc : BitVec 4) (height width : BitVec 16) (s : State),
    (s.frameActive = true →
      exec (.setFrame nc height width) s = .next (errorState s .sequence 0x01 0)) ∧
    (s.frameActive = false → nc ≠ 1 → nc ≠ 3 →
      exec (.setFrame nc height width) s = .next (errorState s .unsupportedComponentCount 0x01 0)) ∧
    (s.frameActive = false → nc = 1 ∨ nc = 3 →
      ¬ (1 ≤ width.toNat ∧ width.toNat ≤ s.params.maxFrameW ∧
        1 ≤ height.toNat ∧ height.toNat ≤ s.params.maxFrameH) →
      exec (.setFrame nc height width) s = .next (errorState s .invalidDimension 0x01 1)) ∧
    (s.frameActive = false → nc = 1 ∨ nc = 3 →
      1 ≤ width.toNat ∧ width.toNat ≤ s.params.maxFrameW ∧ 1 ≤ height.toNat ∧ height.toNat ≤ s.params.maxFrameH →
      exec (.setFrame nc height width) s =
        .next { s with frameW := width, frameH := height, ncomp := nc, cfgValid := true })

/-- R165, R166, R167: the outcomes of `SET_COMP` in the order of its checks, and its commit, which touches the one
component. -/
def Obligations.SetCompOutcome : Prop :=
  ∀ (ci : BitVec 2) (hs vs tq : BitVec 4) (s : State),
    let factorsLegal := 1 ≤ hs.toNat ∧ hs.toNat ≤ 4 ∧ 1 ≤ vs.toNat ∧ vs.toNat ≤ 4
    (s.frameActive = true → exec (.setComp ci hs vs tq) s = .next (errorState s .sequence 0x02 0)) ∧
    (s.frameActive = false → ci = 3 →
      exec (.setComp ci hs vs tq) s = .next (errorState s .unknownComponent 0x02 0)) ∧
    (s.frameActive = false → ci ≠ 3 → ¬ factorsLegal →
      exec (.setComp ci hs vs tq) s = .next (errorState s .invalidSampling 0x02 0)) ∧
    (s.frameActive = false → ci ≠ 3 → factorsLegal → tq ≠ 0 → tq ≠ 1 →
      exec (.setComp ci hs vs tq) s = .next (errorState s .invalidTableId 0x02 0)) ∧
    (s.frameActive = false → ci ≠ 3 → factorsLegal → tq = 0 ∨ tq = 1 →
      ∃ t, exec (.setComp ci hs vs tq) s = .next t ∧
        t = { s with
          comp0 := t.comp0, comp1 := t.comp1, comp2 := t.comp2,
          comp0Valid := t.comp0Valid, comp1Valid := t.comp1Valid, comp2Valid := t.comp2Valid } ∧
        t.comp ci.toNat = ⟨hs, vs, tq⟩ ∧ t.compv ci.toNat = true ∧
        ∀ c, c ≠ ci.toNat → t.comp c = s.comp c ∧ t.compv c = s.compv c)

/-- R170 with R171 and R172: `START` is turned away in the order of its checks, or opens the frame with the maxima, the
MCU grid and the number of blocks. -/
def Obligations.StartOutcome : Prop :=
  ∀ s : State,
    let incomplete := s.cfgValid = false ∨ ∃ c, c < s.ncomp.toNat ∧ s.compv c = false
    let undefinedQt := ∃ c, c < s.ncomp.toNat ∧ s.qtv (s.comp c).tq.toNat = false
    (s.frameActive = true → exec .start s = .next (errorState s .sequence 0x04 0)) ∧
    (s.frameActive = false → incomplete → exec .start s = .next (errorState s .incompleteConfig 0x04 0)) ∧
    (s.frameActive = false → ¬ incomplete → undefinedQt → exec .start s = .next (errorState s .undefinedQt 0x04 0)) ∧
    (s.frameActive = false → ¬ incomplete → ¬ undefinedQt → s.ncomp = 1 ∨ s.ncomp = 3 →
      (∀ c, c < s.ncomp.toNat → 1 ≤ (s.comp c).hs.toNat ∧ (s.comp c).hs.toNat ≤ 4 ∧
        1 ≤ (s.comp c).vs.toNat ∧ (s.comp c).vs.toNat ≤ 4) →
      ∃ t, exec .start s = .next t ∧
        t = { s with
          hmax := t.hmax, vmax := t.vmax, mcux := t.mcux, mcuy := t.mcuy, blktotal := t.blktotal,
          blkcnt := 0, frameActive := true, done := false } ∧
        (∀ c, c < s.ncomp.toNat → (s.comp c).hs.toNat ≤ t.hmax.toNat ∧ (s.comp c).vs.toNat ≤ t.vmax.toNat) ∧
        (∃ c, c < s.ncomp.toNat ∧ (s.comp c).hs = t.hmax) ∧ (∃ c, c < s.ncomp.toNat ∧ (s.comp c).vs = t.vmax) ∧
        t.mcux.toNat = (s.frameW.toNat ⌈/⌉ t.hmax.toNat) ⌈/⌉ 8 ∧
        t.mcuy.toNat = (s.frameH.toNat ⌈/⌉ t.vmax.toNat) ⌈/⌉ 8 ∧
        t.blktotal.toNat =
          t.mcux.toNat * t.mcuy.toNat *
            ∑ c ∈ Finset.range s.ncomp.toNat, (s.comp c).hs.toNat * (s.comp c).vs.toNat)

/-- R171: the padded raster covers the frame, exceeds it by less than one MCU, the two ceiling divisions are one, and
the count fits the 16-bit fields of `GRID`. -/
def Obligations.GridCoversFrame : Prop :=
  ∀ size factor : Nat, 1 ≤ size → size ≤ 65535 → 1 ≤ factor → factor ≤ 4 →
    size ≤ mcuCount size factor * factor * 8 ∧ mcuCount size factor * factor * 8 < size + factor * 8 ∧
    mcuCount size factor = cdiv size (8 * factor) ∧ mcuCount size factor ≤ 8192

/-- R173, R177: the component of block `j` of an MCU is the one whose offset range holds `j`, and the position is that
of the rule's formula. -/
def Obligations.BlockPositionFormula : Prop :=
  ∀ (comps : List CompCfg) (mcux n : Nat), 0 < blocksPerMcu comps → 0 < mcux →
    let j := n % blocksPerMcu comps
    let mx := n / blocksPerMcu comps % mcux
    let my := n / blocksPerMcu comps / mcux
    let p := blockPosition comps mcux n
    p.c < comps.length ∧
    ∀ k, comps[p.c]? = some k →
      componentOffset comps p.c ≤ j ∧ j < componentOffset comps p.c + k.hs.toNat * k.vs.toNat ∧
      p.br = my * k.vs.toNat + (j - componentOffset comps p.c) / k.hs.toNat ∧
      p.bc = mx * k.hs.toNat + (j - componentOffset comps p.c) % k.hs.toNat

/-- R178: `blockPos` is a bijection from the block numbers of a frame onto the block positions of its planes. -/
def Obligations.BlockPositionBijection : Prop :=
  ∀ (comps : List CompCfg) (mcux mcuy : Nat),
    (∀ k ∈ comps, 1 ≤ k.hs.toNat ∧ 1 ≤ k.vs.toNat) →
    (∀ n, n < mcux * mcuy * blocksPerMcu comps →
      ∃ k, comps[(blockPosition comps mcux n).c]? = some k ∧
        (blockPosition comps mcux n).br < mcuy * k.vs.toNat ∧ (blockPosition comps mcux n).bc < mcux * k.hs.toNat) ∧
    (∀ c k br bc, comps[c]? = some k → br < mcuy * k.vs.toNat → bc < mcux * k.hs.toNat →
      ∃! n, n < mcux * mcuy * blocksPerMcu comps ∧ blockPosition comps mcux n = ⟨c, br, bc⟩)

/-! ### LOAD_QT and the zigzag map (spec/40_tables.md) -/

/-- R140: the zigzag map is the rule's table, the table is the rule's scan of the anti-diagonals, up and to the right on
even ones, and the inverse map is the rule's 8 × 8 drawing. -/
def Obligations.ZigzagMapIsTheScan : Prop :=
  (List.range 64).map zz =
    [0, 1, 8, 16, 9, 2, 3, 10, 17, 24, 32, 25, 18, 11, 4, 5, 12, 19, 26, 33, 40, 48, 41, 34, 27, 20, 13, 6, 7, 14, 21, 28] ++
    [35, 42, 49, 56, 57, 50, 43, 36, 29, 22, 15, 23, 30, 37, 44, 51, 58, 59, 52, 45, 38, 31, 39, 46, 53, 60, 61, 54, 47, 55, 62, 63] ∧
  (List.range 64).map zz =
    (List.range 15).flatMap (fun d =>
      let rows := (List.range 8).filter (fun row => row ≤ d ∧ d - row ≤ 7)
      (if d % 2 = 0 then rows.reverse else rows).map (fun row => row * 8 + (d - row))) ∧
  (List.range 64).map zzInv =
    [0, 1, 5, 6, 14, 15, 27, 28, 2, 4, 7, 13, 16, 26, 29, 42, 3, 8, 12, 17, 25, 30, 41, 43, 9, 11, 18, 24, 31, 40, 44, 53] ++
    [10, 19, 23, 32, 39, 45, 52, 54, 20, 22, 33, 38, 46, 51, 55, 60, 21, 34, 37, 47, 50, 56, 59, 61, 35, 36, 48, 49, 57, 58, 62, 63]

/-- R141: `ZZ` is a bijection of 0..63 that keeps 0 and 63, and `ZZINV` is its inverse. -/
def Obligations.ZigzagMapIsBijection : Prop :=
  (∀ k, k < 64 → zz k < 64 ∧ zzInv (zz k) = k) ∧ (∀ i, i < 64 → zzInv i < 64 ∧ zz (zzInv i) = i) ∧
  zz 0 = 0 ∧ zz 63 = 63

/-- R143: the outcomes of `LOAD_QT` in the order of its checks, the first illegal entry word decides, and the commit
places entry `k` at raster index `ZZ[k]` of the one table, sets its valid bit and changes nothing else. -/
def Obligations.LoadQtOutcome : Prop :=
  ∀ (pq tq : BitVec 4) (e : Vector Word 64) (s : State),
    let legal := fun w : Word => w.toNat < if pq = 0 then 256 else 65536
    (s.frameActive = true → exec (.loadQt pq tq e) s = .next (errorState s .sequence 0x03 0)) ∧
    (s.frameActive = false → pq ≠ 0 → pq ≠ 1 →
      exec (.loadQt pq tq e) s = .next (errorState s .outOfRangeField 0x03 0)) ∧
    (s.frameActive = false → pq = 0 ∨ pq = 1 → tq ≠ 0 → tq ≠ 1 →
      exec (.loadQt pq tq e) s = .next (errorState s .invalidTableId 0x03 0)) ∧
    (s.frameActive = false → pq = 0 ∨ pq = 1 → tq = 0 ∨ tq = 1 →
      ∀ j, (hj : j < 64) → ¬ legal e[j] → (∀ k, (hk : k < j) → legal e[k]) →
        exec (.loadQt pq tq e) s = .next (errorState s .outOfRangeField 0x03 (BitVec.ofNat 7 (j + 1)))) ∧
    (s.frameActive = false → pq = 0 ∨ pq = 1 → tq = 0 ∨ tq = 1 → (∀ k, (hk : k < 64) → legal e[k]) →
      ∃ t, exec (.loadQt pq tq e) s = .next t ∧
        t = { s with
          qt := t.qt, qt0Valid := s.qt0Valid || decide (tq = 0), qt1Valid := s.qt1Valid || decide (tq = 1) } ∧
        (∀ k, (hk : k < 64) → t.qt.read (qtKey tq.toNat (zz k)) = some (e[k].extractLsb' 0 16)) ∧
        ∀ a, a < qtKey tq.toNat 0 ∨ qtKey tq.toNat 64 ≤ a → t.qt.read a = s.qt.read a)

/-- R145: after a `LOAD_QT` has committed, reading its window in zigzag order while the engine is not busy returns the
entries in the order they were loaded. -/
def Obligations.QtWindowRoundTrip : Prop :=
  ∀ (pq tq : BitVec 4) (e : Vector Word 64) (s t : State),
    s.err = false → exec (.loadQt pq tq e) s = .next t → t.err = false → t.busy = false →
    ∀ k, (hk : k < 64) →
      t.qt.read (qtKey tq.toNat (zz k)) = some (e[k].extractLsb' 0 16) ∧
      readOffset t (0x100 + 4 * (64 * tq.toNat + zz k)) = e[k]

/-! ### BLOCK (spec/42_block.md) -/

/-- R190 with R191 to R199: the outcomes of `BLOCK` in the order of its checks, and its commit: dequantization by the
table of the block's component, the reorder, the two exact passes, rounding, level shift and clamp, the 64 plane samples
at the block's position, `LASTDQ`, `LASTBLK`, `BLKCNT`, and nothing else (but the model's own count of draws). -/
def Obligations.BlockOutcome : Prop :=
  ∀ (coefs : Vector Word 64) (s : State),
    let legal := fun w : Word => ∃ v : Int, -32768 ≤ v ∧ v ≤ 32767 ∧ w = BitVec.ofInt 32 v
    let pos := s.blockPos s.blkcnt.toNat
    (s.frameActive = false ∨ s.blktotal.toNat ≤ s.blkcnt.toNat →
      exec (.block coefs) s = .next (errorState s .sequence 0x05 0)) ∧
    (s.frameActive = true → s.blkcnt.toNat < s.blktotal.toNat →
      ∀ j, (hj : j < 64) → ¬ legal coefs[j] → (∀ k, (hk : k < j) → legal coefs[k]) →
        exec (.block coefs) s = .next (errorState s .outOfRangeField 0x05 (BitVec.ofNat 7 (j + 1)))) ∧
    (s.frameActive = true → s.blkcnt.toNat < s.blktotal.toNat →
      ∀ (v : Nat → Int) (q : Nat → BitVec 16),
        (∀ k, (hk : k < 64) → -32768 ≤ v k ∧ v k ≤ 32767 ∧ coefs[k] = BitVec.ofInt 32 (v k)) →
        (∀ i, i < 64 → s.qt.read (qtKey (s.comp pos.c).tq.toNat i) = some (q i)) →
        let d := fun i : Nat => v (zzInv i) * ((q i).toNat : Int)
        let t1 := fun r x : Nat => ∑ u ∈ Finset.range 8, kConst u x * d (8 * r + u)
        let s2 := fun y x : Nat => ∑ r ∈ Finset.range 8, kConst r y * t1 r x
        ∃ t, exec (.block coefs) s = .next t ∧
          t = { s with
            plane := t.plane, lastdq := t.lastdq, lastblk := t.lastblk, blkcnt := s.blkcnt + 1, draws := t.draws } ∧
          (∀ i, i < 64 → ∃ x, t.lastdq.read i = some x ∧ x.toInt = d i) ∧
          (∀ y x, y < 8 → x < 8 → ∃ p : Byte,
            (p.toNat : Int) = min 255 (max 0 ((s2 y x + 2 ^ 25) / 2 ^ 26 + 128)) ∧
            t.lastblk.read (8 * y + x) = some p ∧
            t.plane.read (planeKey pos.c (8 * pos.br + y) (8 * pos.bc + x)) = some p) ∧
          (∀ a, (∀ y x, y < 8 → x < 8 → a ≠ planeKey pos.c (8 * pos.br + y) (8 * pos.bc + x)) →
            t.plane.read a = s.plane.read a))

/-- R193: each coefficient is multiplied by the entry at its raster position; the product is exact and fits 32 bits. -/
def Obligations.DequantizationIsExact : Prop :=
  ∀ (s : State) (t : Nat) (coefs : Vector Word 64) (k : Nat) (hk : k < 64),
    let d := (dequantize s t coefs.toList).getD (zz k) 0
    d = coefValue coefs[k] * ((qtEntry s t (zz k)).toNat : Int) ∧
    (∀ q, s.qt.read (qtKey t (zz k)) = some q → qtEntry s t (zz k) = q) ∧
    -2147450880 ≤ d ∧ d ≤ 2147450880 ∧ (BitVec.ofInt 32 d).toInt = d

/-- R200: the bounds of every value of the transform, so that 64-bit arithmetic never overflows. -/
def Obligations.TransformWidths : Prop :=
  (∀ w : Word, -32768 ≤ coefValue w ∧ coefValue w ≤ 32767) ∧
  (∀ (s : State) (t i : Nat), (qtEntry s t i).toNat ≤ 65535) ∧
  (∀ (s : State) (t : Nat) (coefs : List Word), ∀ x ∈ dequantize s t coefs, |x| ≤ 2147450880) ∧
  (∀ k n : Nat, |kConst k n| ≤ 4017) ∧
  (∀ d : List Int, (∀ x ∈ d, |x| ≤ 2147450880) →
    (∀ x ∈ rowPass d, |x| < 2 ^ 46) ∧
    (∀ x ∈ colPass (rowPass d), |x| < 2 ^ 61 ∧ |x + 2 ^ 25| < 2 ^ 63 ∧ |fdiv (x + 2 ^ 25) (2 ^ 26) + 128| < 2 ^ 36 ∧
      0 ≤ descale x ∧ descale x ≤ 255))

/-- R195: the constants are the integers nearest to the scaled cosine basis, and none of the real values lies halfway. -/
def Obligations.TransformConstantsAreNearest : Prop :=
  ∀ k n : Nat, k < 8 → n < 8 →
    |(kConst k n : ℝ) -
      8192 * (if k = 0 then 1 / Real.sqrt 2 else 1) / 2 * Real.cos ((2 * n + 1) * k * Real.pi / 16)| < 1 / 2

/-- R203 (a), (b): a block whose only nonzero coefficient is DC has `S = 8386816 × D[0]` everywhere, and 64 equal
samples; with no nonzero coefficient every sample is 128. -/
def Obligations.DcOnlyBlock : Prop :=
  (∀ x : Int,
    colPass (rowPass (x :: List.replicate 63 0)) = List.replicate 64 (8386816 * x) ∧
    blockSamples (x :: List.replicate 63 0) =
      List.replicate 64 (BitVec.ofInt 8 (min 255 (max 0 ((8386816 * x + 2 ^ 25) / 2 ^ 26 + 128))))) ∧
  blockSamples (List.replicate 64 0) = List.replicate 64 128

/-! ### FINISH (spec/43_reconstruct.md) -/

/-- R220 with R221, R223 and R224: `FINISH` is turned away outside a complete frame, or writes the cropped raster, three
bytes a pixel, and closes the frame; the bytes above the image keep their values. -/
def Obligations.FinishOutcome : Prop :=
  ∀ s : State,
    (s.frameActive = false ∨ s.blkcnt ≠ s.blktotal → exec .finish s = .next (errorState s .sequence 0x06 0)) ∧
    (s.frameActive = true → s.blkcnt = s.blktotal →
      ∃ t, exec .finish s = .next t ∧
        t = { s with outm := t.outm, frameActive := false, done := true, draws := t.draws } ∧
        (∀ a, 3 * (s.frameW.toNat * s.frameH.toNat) ≤ a → t.outm.read a = s.outm.read a) ∧
        ∀ (x y : Nat) (v : Nat → Byte), s.ncomp = 1 ∨ s.ncomp = 3 → x < s.frameW.toNat → y < s.frameH.toNat →
          (∀ c, c < s.ncomp.toNat →
            s.plane.read (planeKey c (y * (s.comp c).vs.toNat / s.vmax.toNat) (x * (s.comp c).hs.toNat / s.hmax.toNat)) =
              some (v c)) →
          ∀ b, b < 3 →
            t.outm.read (3 * (y * s.frameW.toNat + x) + b) =
              if s.ncomp = 3 then (ycc (v 0) (v 1) (v 2))[b]? else some (v 0))

/-- R221: the sample an output row or column takes lies inside the plane; where the ratio is an integer each sample
covers that many adjacent rows or columns; a component with the maximum maps 1:1. -/
def Obligations.UpsamplingReadsInsidePlane : Prop :=
  (∀ x size factor maximum mcus : Nat, 1 ≤ factor → 1 ≤ maximum → x < size → size ≤ mcus * maximum * 8 →
    upsampleIndex x factor maximum < mcus * factor * 8) ∧
  (∀ x factor ratio : Nat, 1 ≤ factor → 1 ≤ ratio → upsampleIndex x factor (factor * ratio) = x / ratio) ∧
  (∀ x factor : Nat, 1 ≤ factor → upsampleIndex x factor factor = x)

/-- R222: the conversion's three channels, with floor division for the shift; every intermediate is below 2^24 in
magnitude. -/
def Obligations.ColourConversionFormula : Prop :=
  ∀ y cb cr : Byte, ∃ r g b : Byte,
    ycc y cb cr = [r, g, b] ∧
    (r.toNat : Int) = min 255 (max 0 (y.toNat + (91881 * ((cr.toNat : Int) - 128) + 32768) / 65536)) ∧
    (g.toNat : Int) =
      min 255 (max 0 (y.toNat + (-22554 * ((cb.toNat : Int) - 128) - 46802 * ((cr.toNat : Int) - 128) + 32768) / 65536)) ∧
    (b.toNat : Int) = min 255 (max 0 (y.toNat + (116130 * ((cb.toNat : Int) - 128) + 32768) / 65536)) ∧
    |91881 * ((cr.toNat : Int) - 128) + 32768| < 2 ^ 24 ∧
    |-22554 * ((cb.toNat : Int) - 128) - 46802 * ((cr.toNat : Int) - 128) + 32768| < 2 ^ 24 ∧
    |116130 * ((cb.toNat : Int) - 128) + 32768| < 2 ^ 24

/-- R226: the reference points of the colour conversion; and R223's remark that neutral chroma gives the output of a
grayscale frame. -/
def Obligations.ColourReferencePoints : Prop :=
  ycc 0 128 128 = [0, 0, 0] ∧ ycc 255 128 128 = [255, 255, 255] ∧ ycc 128 128 128 = [128, 128, 128] ∧
  ycc 16 128 128 = [16, 16, 16] ∧ ycc 235 128 128 = [235, 235, 235] ∧ ycc 76 85 255 = [254, 0, 0] ∧
  ycc 150 44 21 = [0, 255, 1] ∧ ycc 29 255 107 = [0, 0, 254] ∧ ycc 255 0 0 = [76, 255, 28] ∧
  ycc 0 255 255 = [178, 0, 225] ∧ ycc 128 0 255 = [255, 81, 0] ∧ ycc 100 200 50 = [0, 131, 228] ∧
  ycc 128 129 127 = [127, 128, 130] ∧ ycc 128 127 129 = [129, 128, 126] ∧ ycc 128 96 192 = [218, 93, 71] ∧
  ycc 128 118 148 = [156, 117, 110] ∧ ycc 148 148 108 = [120, 155, 183] ∧
  ∀ y : Byte, ycc y 128 128 = [y, y, y]

/-! ### All commands: errors, frames, sequence (spec/60_exceptions.md, spec/20_memory.md R95) -/

/-- Every command has a next state in every state; from a state without error it commits exactly when it passes its
checks, and else enters the error state. One that a host sends as its duties ask (R270, with R253 and R170) never fails
with UNDEFINED_QT, and with SEQUENCE only as a `START` inside a frame. That clause is the model's reading of R270
(DEDUCED, log 20): a duty is judged in the state the command finds, and a `START` inside a frame is a liberty. -/
def Obligations.EveryCommandHasANextState : Prop :=
  ∀ (i : Instr) (s : State), ∃ t, exec i s = .next t ∧
    (s.err = false → (t.err = false ↔ s.accepts i)) ∧
    (dutifulCommand i.opcode s = true → t.err = true →
      t.errInfo.cause ≠ .undefinedQt ∧
      (t.errInfo.cause = .sequence → i.opcode = .start ∧ s.frameActive = true))

/-- R253: which commands raise SEQUENCE in which frame state. -/
def Obligations.SequenceLegality : Prop :=
  ∀ (i : Instr) (s t : State), s.err = false → exec i s = .next t →
    ((t.err = true ∧ t.errInfo.cause = .sequence) ↔
      match i with
      | .nop => False
      | .setFrame _ _ _ | .setComp _ _ _ _ | .loadQt _ _ _ | .start => s.frameActive = true
      | .block _ => s.frameActive = false ∨ s.blktotal.toNat ≤ s.blkcnt.toNat
      | .finish => s.frameActive = false ∨ s.blkcnt ≠ s.blktotal)

/-- R255: an error enters the error state and nothing else changes; while halted the engine takes no step, a `CMDPORT`
write is discarded, `FREE` reads the whole depth, `BUSY` reads 0, reads and `CTRL` writes go on. That the machine answers
the fault `halted` when nothing is planned (log 7), and that a planned engine's turn passes (log 5), are the model's
choices. -/
def Obligations.ErrorEntryAndHalt : Prop :=
  (∀ (i : Instr) (s t : State), s.err = false → exec i s = .next t → t.err = true →
    t = errorState s t.errInfo.cause t.errInfo.opcode t.errInfo.word ∧
    t.errInfo.cause ≠ .none ∧ t.errInfo.opcode = i.opcode.code ∧ t.errInfo.word.toNat < i.opcode.len) ∧
  (∀ s : State, s.PortOk → s.ps = .halted →
    (s.agenda = [] → step s = .fault .halted) ∧
    (∀ ts, s.agenda = .engine :: ts → step s = .next { s with agenda := ts }) ∧
    (∀ m w ts, s.agenda = .access m (.write 0x14 32 w) :: ts →
      step s = .next { s with agenda := ts, resp := some .writeDone }) ∧
    (∀ m w ts, s.agenda = .access m (.write 0x08 32 w) :: ts → w.getLsbD 31 = false →
      step s = .next { s with
        agenda := ts, resp := some .writeDone, doneIE := w.getLsbD 0, errIE := w.getLsbD 1 }) ∧
    (∀ m off ts, s.agenda = .access m (.read off 32) :: ts → off.toNat % 4 = 0 →
      ∃ t, step s = .next t ∧ t.resp = some (.readData (readOffset s off.toNat))) ∧
    (readOffset s 0x18).extractLsb' 0 16 = BitVec.ofNat 16 s.params.fifoDepth ∧
    s.busy = false)

/-- R258 (and R264): while the engine is halted no second error is recorded, and only a reset ends the error state. -/
def Obligations.OnlyResetEndsTheErrorState : Prop :=
  ∀ s t : State, s.ps = .halted → step s = .next t →
    (∀ turn ts, s.agenda = turn :: ts → turn.resets = false) →
    t.ps = .halted ∧ t.err = s.err ∧ t.errInfo = s.errInfo

/-- R95 (the written spaces), R261: what each command leaves alone when it does not fail, whatever it is: the command
port's state, the interrupt enables, and every space that its row of the table does not name. No command raises both
`DONE` and `ERR`. -/
def Obligations.CommandFrames : Prop :=
  ∀ (i : Instr) (s t : State), exec i s = .next t →
    (t.params = s.params ∧ t.csi = s.csi ∧ t.stg = s.stg ∧ t.held = s.held ∧ t.doneIE = s.doneIE ∧
      t.errIE = s.errIE ∧ t.agenda = s.agenda ∧ t.resp = s.resp) ∧
    (s.err = false → t.err = false → t.ps = s.ps ∧ t.fifo = s.fifo ∧ t.errInfo = s.errInfo) ∧
    (s.err = false → t.err = true → t.done = s.done) ∧
    (i.opcode ≠ .setFrame →
      t.frameW = s.frameW ∧ t.frameH = s.frameH ∧ t.ncomp = s.ncomp ∧ t.cfgValid = s.cfgValid) ∧
    (i.opcode ≠ .setComp → ∀ c, t.comp c = s.comp c ∧ t.compv c = s.compv c) ∧
    (i.opcode ≠ .loadQt → t.qt = s.qt ∧ ∀ u, t.qtv u = s.qtv u) ∧
    (i.opcode ≠ .start →
      t.hmax = s.hmax ∧ t.vmax = s.vmax ∧ t.mcux = s.mcux ∧ t.mcuy = s.mcuy ∧ t.blktotal = s.blktotal) ∧
    (i.opcode ≠ .block → t.plane = s.plane ∧ t.lastdq = s.lastdq ∧ t.lastblk = s.lastblk) ∧
    (i.opcode ≠ .block → i.opcode ≠ .start → t.blkcnt = s.blkcnt) ∧
    (i.opcode ≠ .finish → t.outm = s.outm) ∧
    (i.opcode ≠ .start → i.opcode ≠ .finish →
      t.done = s.done ∧ (s.err = false → t.err = false → t.frameActive = s.frameActive) ∧
      (t.err = s.err → t.frameActive = true → s.frameActive = true))

/-- R147, R305: within a frame, tables and configuration are read-only: whatever step is taken, if the frame is still
open after it they are unchanged. -/
def Obligations.FrameIsFrozen : Prop :=
  ∀ s t : State, s.frameActive = true → step s = .next t → t.frameActive = true →
    t.qt = s.qt ∧ t.qt0Valid = s.qt0Valid ∧ t.qt1Valid = s.qt1Valid ∧ t.frameW = s.frameW ∧ t.frameH = s.frameH ∧
    t.ncomp = s.ncomp ∧ t.comp0 = s.comp0 ∧ t.comp1 = s.comp1 ∧ t.comp2 = s.comp2 ∧ t.mcux = s.mcux ∧
    t.mcuy = s.mcuy ∧ t.hmax = s.hmax ∧ t.vmax = s.vmax ∧ t.blktotal = s.blktotal

/-- R257: an error inside a frame leaves `DONE` at 0 and `OUTM` as it was. -/
def Obligations.NoPartialImage : Prop :=
  ∀ s t : State, s.FrameOk → s.frameActive = true → s.err = false → step s = .next t → t.err = true →
    t.done = false ∧ t.outm = s.outm ∧ t.frameActive = false

/-! ### Reset and the host's accesses (spec/10_state.md, spec/20_memory.md, spec/70_reset_and_hazards.md) -/

/-- R67: what every register reads after power-on, and after a reset of any state; the FIFO, the parser and `csi`; and
that no memory cell holds a value. -/
def Obligations.ResetStateTable : Prop :=
  ∀ s : State, s = State.reset ∨ (∃ r : State, s = resetEngine r) →
    readOffset s 0x00 = 0x49444354 ∧ readOffset s 0x08 = 0 ∧ readOffset s 0x0C = 0 ∧ readOffset s 0x10 = 0 ∧
    readOffset s 0x1C = 0 ∧ readOffset s 0x20 = 0 ∧ readOffset s 0x24 = 0 ∧ readOffset s 0x28 = 0 ∧
    readOffset s 0x2C = 0 ∧ readOffset s 0x30 = 0 ∧ readOffset s 0x34 = 0 ∧ readOffset s 0x38 = 0 ∧
    readOffset s 0x3C = 0 ∧
    readOffset s 0x18 = BitVec.ofNat 16 s.params.fifoDepth ++ BitVec.ofNat 16 s.params.fifoDepth ∧
    readOffset s 0x04 = BitVec.ofNat 16 s.params.maxFrameH ++ BitVec.ofNat 16 s.params.maxFrameW ∧
    s.fifo = [] ∧ s.ps = .idle ∧ s.csi = 0 ∧ s.irq = false ∧ s.qtv 0 = false ∧ s.qtv 1 = false ∧
    ∀ a, s.qt.read a = none ∧ s.plane.read a = none ∧ s.lastdq.read a = none ∧ s.lastblk.read a = none ∧
      s.outm.read a = none ∧ s.stg.read a = none

/-- R291: a host write of `CTRL` with bit 31 set leaves the state of a reset, whatever its other bits: the FIFO, a
partial command, a held write, every register and every memory value are gone, the parameters are unaffected, it cannot
fail, two in a row are one, and `SRST` reads 0 afterwards. R290: a step whose turn is power-on leaves it too. That
power-on is a turn, and what a reset keeps of the model's own fields, are the model's choices (log 15). -/
def Obligations.SoftResetOutcome : Prop :=
  (∀ (s : State) (m : Master) (w : Word) (ts : List Turn),
    s.agenda = .access m (.write 0x08 32 w) :: ts → holds m s = false → w.getLsbD 31 = true →
    step s = .next { State.reset with
      params := s.params, draws := s.draws, agenda := ts, resp := some .writeDone }) ∧
  (∀ (s : State) (ts : List Turn), s.agenda = .powerOn :: ts →
    step s = .next { State.reset with params := s.params, draws := s.draws, agenda := ts, resp := s.resp }) ∧
  (∀ r : State, readOffset (resetEngine r) 0x08 = 0 ∧ resetEngine (resetEngine r) = resetEngine r)

/-- R37, R40: a `CTRL` write with bit 31 clear sets the two enables, and they read back with all other bits 0; a
`STATUS` write clears DONE when bit 1 is written as 1 and does nothing else. -/
def Obligations.CtrlAndStatusWrites : Prop :=
  ∀ (s : State) (m : Master) (w : Word) (ts : List Turn), holds m s = false →
    (s.agenda = .access m (.write 0x08 32 w) :: ts → w.getLsbD 31 = false →
      ∃ t, step s = .next t ∧
        t = { s with agenda := ts, resp := some .writeDone, doneIE := w.getLsbD 0, errIE := w.getLsbD 1 } ∧
        readOffset t 0x08 = w &&& 3) ∧
    (s.agenda = .access m (.write 0x0C 32 w) :: ts →
      step s = .next { s with agenda := ts, resp := some .writeDone, done := s.done && !w.getLsbD 1 })

/-- R48: a `CMDPORT` write appends its word, is held (and not answered) when the FIFO is full, and is discarded when
`ERR = 1`; a read returns 0 and has no effect. -/
def Obligations.CommandPortWrite : Prop :=
  ∀ (s : State) (m : Master) (w : Word) (ts : List Turn), holds m s = false →
    (s.agenda = .access m (.write 0x14 32 w) :: ts →
      (s.err = false → s.fifo.length < s.params.fifoDepth →
        step s = .next { s with agenda := ts, resp := some .writeDone, fifo := s.fifo ++ [w] }) ∧
      (s.err = false → s.params.fifoDepth ≤ s.fifo.length →
        step s = .next { s with agenda := ts, held := s.held ++ [⟨m, w⟩] }) ∧
      (s.err = true → step s = .next { s with agenda := ts, resp := some .writeDone })) ∧
    (s.agenda = .access m (.read 0x14 32) :: ts → step s = .next { s with agenda := ts, resp := some (.readData 0) })

/-- R93: a held write completes with the engine's next step, which always comes: its word is appended, or discarded if
the step ended in an error, which empties the FIFO. -/
def Obligations.HeldWriteCompletes : Prop :=
  ∀ (s : State) (h : HeldWrite), s.PortOk → s.held = [h] → s.agenda = [] →
    ∃ t, step s = .next t ∧ t.held = [] ∧ t.resp = some .writeDone ∧
      (t.err = false → t.fifo = s.fifo.tail ++ [h.data]) ∧ (t.err = true → t.fifo = [])

/-- R96: a master's access is not performed before its held write has completed. That the engine steps instead, and the
access stays planned, is the model's choice of how the agenda runs (log 5). -/
def Obligations.HostAccessesInOrder : Prop :=
  ∀ (s : State) (m : Master) (a : Access) (ts : List Turn),
    s.PortOk → holds m s = true → s.agenda = .access m a :: ts →
    ∃ t, step s = .next t ∧ t.agenda = s.agenda ∧ t.csi = s.csi + 1

/-- R91: no read has a side effect (the bus's answer and the count of draws are the model's own); three writes have one,
and no other write does. -/
def Obligations.SideEffectsOfAccesses : Prop :=
  ∀ (s : State) (m : Master) (off : Word) (ts : List Turn), holds m s = false → off.toNat % 4 = 0 →
    (s.agenda = .access m (.read off 32) :: ts →
      ∃ t, step s = .next t ∧
        t = { s with agenda := ts, resp := some (.readData (readOffset s off.toNat)), draws := t.draws }) ∧
    (∀ w, s.agenda = .access m (.write off 32 w) :: ts → off ≠ 0x08 → off ≠ 0x0C → off ≠ 0x14 →
      step s = .next { s with agenda := ts, resp := some .writeDone }) ∧
    (∀ w, s.agenda = .access m (.write 0x14 32 w) :: ts → s.err = false → s.fifo.length < s.params.fifoDepth →
      ∃ t, step s = .next t ∧ t.fifo = s.fifo ++ [w]) ∧
    (∀ w, s.agenda = .access m (.write 0x08 32 w) :: ts → w.getLsbD 31 = true →
      step s = .next { resetEngine s with agenda := ts, resp := some .writeDone }) ∧
    (∀ w, s.agenda = .access m (.write 0x0C 32 w) :: ts → w.getLsbD 1 = true →
      ∃ t, step s = .next t ∧ t.done = false)

/-- R85, R57: a read of a reserved offset returns 0, a write has no effect, and neither faults. -/
def Obligations.ReservedOffsets : Prop :=
  ∀ (s : State) (m : Master) (off : Word) (ts : List Turn), holds m s = false → off.toNat % 4 = 0 →
    (0x40 ≤ off.toNat ∧ off.toNat < 0x100) ∨ (0x500 ≤ off.toNat ∧ off.toNat < 0x01000000) ∨
      0x01000000 + outmSize s.params ≤ off.toNat →
    (s.agenda = .access m (.read off 32) :: ts →
      step s = .next { s with agenda := ts, resp := some (.readData 0) }) ∧
    (∀ w, s.agenda = .access m (.write off 32 w) :: ts →
      step s = .next { s with agenda := ts, resp := some .writeDone })

/-- R88, R89: an access that is not 32 bits wide, or whose offset is not a multiple of 4, is refused with no state; every
other access is performed. -/
def Obligations.IllegalAccessRefused : Prop :=
  ∀ (s : State) (m : Master) (off : Word) (width : Nat) (ts : List Turn), holds m s = false →
    (s.agenda = .access m (.read off width) :: ts →
      (width = 32 ∧ off.toNat % 4 = 0 → ∃ t, step s = .next t) ∧
      (¬ (width = 32 ∧ off.toNat % 4 = 0) → step s = .refused (.busError (.read off width)))) ∧
    (∀ w, s.agenda = .access m (.write off width w) :: ts →
      (width = 32 ∧ off.toNat % 4 = 0 → ∃ t, step s = .next t) ∧
      (¬ (width = 32 ∧ off.toNat % 4 = 0) → step s = .refused (.busError (.write off width w))))

/-- R31, R36, R37, R47 to R56, R250: every register's word but that of `STATUS` (see `StatusBits`), field by field as
numbers, and the cause codes. -/
def Obligations.RegisterWords : Prop :=
  (∀ s : State, s.params.Legal → s.fifo.length ≤ s.params.fifoDepth →
    readOffset s 0x00 = 0x49444354 ∧
    (readOffset s 0x04).toNat = s.params.maxFrameH * 65536 + s.params.maxFrameW ∧
    (readOffset s 0x08).toNat = (if s.errIE then 2 else 0) + (if s.doneIE then 1 else 0) ∧
    (readOffset s 0x10).toNat =
      s.errInfo.word.toNat * 65536 + s.errInfo.opcode.toNat * 256 + s.errInfo.cause.code.toNat ∧
    readOffset s 0x14 = 0 ∧
    (readOffset s 0x18).toNat = s.params.fifoDepth * 65536 + (s.params.fifoDepth - s.fifo.length) ∧
    (readOffset s 0x1C).toNat = s.frameH.toNat * 65536 + s.frameW.toNat ∧
    (readOffset s 0x20).toNat = s.ncomp.toNat ∧
    (∀ c, c < 3 → (readOffset s (0x24 + 4 * c)).toNat =
      (s.comp c).hs.toNat * 256 + (s.comp c).vs.toNat * 16 + (s.comp c).tq.toNat) ∧
    (readOffset s 0x30).toNat = s.mcuy.toNat * 65536 + s.mcux.toNat ∧
    (readOffset s 0x34).toNat = s.vmax.toNat * 16 + s.hmax.toNat ∧
    readOffset s 0x38 = s.blktotal ∧ readOffset s 0x3C = s.blkcnt) ∧
  [Cause.none, .illegalOpcode, .reservedBits, .sequence, .invalidTableId, .outOfRangeField,
    .unsupportedComponentCount, .unknownComponent, .invalidSampling, .invalidDimension, .incompleteConfig,
    .undefinedQt].map Cause.code =
  [0x00, 0x01, 0x02, 0x03, 0x04, 0x05, 0x06, 0x07, 0x08, 0x09, 0x0A, 0x0B]

/-- R38, R39, R44: the bits of `STATUS`, with `BUSY` and `IRQ` computed at the read. -/
def Obligations.StatusBits : Prop :=
  ∀ s : State,
    ((readOffset s 0x0C).getLsbD 0 = true ↔
      s.err = false ∧ (s.fifo ≠ [] ∨ ∃ op hdr n, s.ps = .payload op hdr n)) ∧
    (readOffset s 0x0C).getLsbD 1 = s.done ∧ (readOffset s 0x0C).getLsbD 2 = s.err ∧
    (readOffset s 0x0C).getLsbD 3 = s.frameActive ∧ (readOffset s 0x0C).getLsbD 4 = s.qt0Valid ∧
    (readOffset s 0x0C).getLsbD 5 = s.qt1Valid ∧
    ((readOffset s 0x0C).getLsbD 6 = true ↔
      (s.done = true ∧ s.doneIE = true) ∨ (s.err = true ∧ s.errIE = true)) ∧
    (readOffset s 0x0C).getLsbD 7 = s.cfgValid ∧ (readOffset s 0x0C).getLsbD 8 = s.comp0Valid ∧
    (readOffset s 0x0C).getLsbD 9 = s.comp1Valid ∧ (readOffset s 0x0C).getLsbD 10 = s.comp2Valid ∧
    ∀ n, 11 ≤ n → (readOffset s 0x0C).getLsbD n = false

/-- R82, R83, R84, R100: what the windows return while the engine is not busy; a write to a window is ignored. What is
unspecified is a free value of the present draw (DESIGN CHOICE, log 3), of the width of what is read, the whole word for
a table that is not valid (DEDUCED, log 13). -/
def Obligations.WindowWords : Prop :=
  (∀ s : State, s.busy = false →
    (∀ t i v, t < 2 → i < 64 → s.qtv t = true → s.qt.read (qtKey t i) = some v →
      (readOffset s (0x100 + 4 * (64 * t + i))).toNat = v.toNat) ∧
    (∀ t i, t < 2 → i < 64 → s.qtv t = false →
      readOffset s (0x100 + 4 * (64 * t + i)) = Config.freeBits 32 s.draws 0) ∧
    (∀ i v, i < 64 → s.lastdq.read i = some v → readOffset s (0x300 + 4 * i) = v) ∧
    (∀ i, i < 64 → s.lastdq.read i = none → readOffset s (0x300 + 4 * i) = Config.freeBits 32 s.draws 0) ∧
    (∀ i v, i < 64 → s.lastblk.read i = some v → (readOffset s (0x400 + 4 * i)).toNat = v.toNat) ∧
    (∀ i, i < 64 → s.lastblk.read i = none →
      (readOffset s (0x400 + 4 * i)).toNat = (Config.freeBits 8 s.draws 0).toNat) ∧
    (∀ a k, a % 4 = 0 → a < outmSize s.params → k < 4 →
      (readOffset s (0x01000000 + a)).extractLsb' (8 * k) 8 = (s.outm.read (a + k)).getD (Config.freeBits 8 s.draws k)) ∧
    (∀ a b0 b1 b2 b3, a % 4 = 0 → a < outmSize s.params → s.outm.read a = some b0 → s.outm.read (a + 1) = some b1 →
      s.outm.read (a + 2) = some b2 → s.outm.read (a + 3) = some b3 →
      readOffset s (0x01000000 + a) = b3 ++ b2 ++ b1 ++ b0)) ∧
  (∀ (s : State) (m : Master) (off w : Word) (ts : List Turn), holds m s = false → off.toNat % 4 = 0 →
    (0x100 ≤ off.toNat ∧ off.toNat < 0x500) ∨
      (0x01000000 ≤ off.toNat ∧ off.toNat < 0x01000000 + outmSize s.params) →
    s.agenda = .access m (.write off 32 w) :: ts →
    step s = .next { s with agenda := ts, resp := some .writeDone })

/-- R101: a read of any window word while `BUSY = 1` returns a draw, and the next read takes another. That the draw is
`freeBits` of the count (DESIGN CHOICE, log 3) and that all 32 bits are free (DEDUCED, log 13) is the model's. -/
def Obligations.BusyWindowIsFree : Prop :=
  ∀ (s : State) (m : Master) (off : Word) (ts : List Turn), holds m s = false → off.toNat % 4 = 0 → s.busy = true →
    (0x100 ≤ off.toNat ∧ off.toNat < 0x500) ∨
      (0x01000000 ≤ off.toNat ∧ off.toNat < 0x01000000 + outmSize s.params) →
    s.agenda = .access m (.read off 32) :: ts →
    step s = .next { s with
      agenda := ts, resp := some (.readData (Config.freeBits 32 s.draws 0)), draws := s.draws + 1 }

/-! ### Invariants: they hold at reset and every step keeps them -/

/-- The state after reset meets every invariant. -/
def Obligations.ResetMeetsTheInvariants : Prop := State.reset.Inv

/-- Every step keeps the memories in canonical form, which is the model's choice (log 4), and within their sizes: `QT`,
`LASTDQ` and `LASTBLK` by themselves; `STG`, `OUTM` and `PLANE` where the parser and the frame keep their rules. -/
def Obligations.StepKeepsMemoriesCanonical : Prop :=
  (∀ s t : State, s.MemoryOk → step s = .next t → t.MemoryOk) ∧
  (∀ s t : State, s.PortOk → s.ConfigOk → s.FrameOk → step s = .next t →
    t.stg.keysIn 1 65 = true ∧ t.outm.keysIn 0 (outmSize t.params) = true ∧ planeOk t = true)

/-- Every step keeps the rules of the command port, the parser and the error state (R34, R35, R41, R47, R93, R255): in
particular an accepted header still passes its check, and every accepted payload word is staged and passes its own. -/
def Obligations.StepKeepsPortRules : Prop :=
  ∀ s t : State, s.PortOk → step s = .next t → t.PortOk

/-- Every step keeps the configuration legal, and a table's entries present exactly when it is valid. -/
def Obligations.StepKeepsConfigurationLegal : Prop :=
  ∀ s t : State, s.ConfigOk → step s = .next t → t.ConfigOk

/-- Every step keeps the frame's rules: `BLKCNT` never exceeds `BLKTOTAL` (R56), `OUTM` and `PLANE` are written within
their sizes (R62, R59), and inside a frame the configuration is complete, the grid is that of R171 and R172, and every counted block has been written. -/
def Obligations.StepKeepsFrameRules : Prop :=
  ∀ s t : State, s.PortOk → s.ConfigOk → s.FrameOk → step s = .next t → t.FrameOk

/-- R67, R59, R178, R221: "No command reads `QT`, `PLANE` or `STG` before writing it": in every state that meets the
invariants, the entries a legal `BLOCK` reads, the samples a legal `FINISH` reads and the staged words of a command
about to complete are all written, so no free value enters a command. -/
def Obligations.NoCommandReadsBeforeWriting : Prop :=
  ∀ s : State, s.Inv →
    (blockCheck s = none → ∀ i, i < 64 →
      (s.qt.read (qtKey (s.comp (s.blockPos s.blkcnt.toNat).c).tq.toNat i)).isSome = true) ∧
    (finishCheck s = none → ∀ c x y, c < s.ncomp.toNat → x < s.frameW.toNat → y < s.frameH.toNat →
      (s.plane.read (sampleKey s c x y)).isSome = true) ∧
    (∀ op hdr n, s.ps = .payload op hdr n → ∀ j, 1 ≤ j → j ≤ n → (s.stg.read j).isSome = true)
end

