-- ==== Sys2Proof/Laws/Encoding.lean ====
section
/-! SUPPORT. What the encoder writes, read back field by field (spec/30_encoding.md R115 to R118), and the lengths of
encodings and payloads. -/

namespace Sys2Proof

@[simp] theorem payload64_toList (p : List Word) :
    (payload64 p).toList = (List.range 64).map (fun k => p.getD k 0) := rfl

/-- Sixty-four payload words make a payload of just those words. -/
theorem payload64_of_length {p : List Word} (h : p.length = 64) : (payload64 p).toList = p := by
  rw [payload64_toList]
  apply List.ext_getElem
  · simp [h]
  · intro k h1 h2
    simp [List.getD, List.getElem?_eq_getElem h2]

@[simp] theorem payload64_vector (v : Vector Word 64) : payload64 v.toList = v := by
  have h : (payload64 v.toList).toList = v.toList := payload64_of_length (by simp)
  exact Vector.toList_inj.1 h

/-- The payload has the length the opcode gives it (R112). -/
theorem encodePayload_length (i : Instr) : (encodePayload i).length = i.opcode.len - 1 := by
  cases i <;> simp [encodePayload, Instr.opcode, Opcode.len]

theorem encode_length (i : Instr) : (encode i).length = i.opcode.len := by
  have h := encodePayload_length i
  have hl : 1 ≤ i.opcode.len := by cases i <;> simp [Instr.opcode, Opcode.len]
  rw [encode, List.length_cons, h]
  omega

/-! ### Header fields -/

@[simp] theorem ncField_setFrame (nc : BitVec 4) (h w : BitVec 16) : ncField (encodeHeader (.setFrame nc h w)) = nc := by
  simp only [ncField, encodeHeader, bits, placeField]
  refine BitVec.eq_of_getLsbD_eq fun i hi => ?_
  interval_cases i <;> simp

@[simp] theorem ciField_setComp (ci : BitVec 2) (hs vs tq : BitVec 4) :
    ciField (encodeHeader (.setComp ci hs vs tq)) = ci := by
  simp only [ciField, encodeHeader, bits, placeField]
  refine BitVec.eq_of_getLsbD_eq fun i hi => ?_
  interval_cases i <;> simp

@[simp] theorem hsField_setComp (ci : BitVec 2) (hs vs tq : BitVec 4) :
    hsField (encodeHeader (.setComp ci hs vs tq)) = hs := by
  simp only [hsField, encodeHeader, bits, placeField]
  refine BitVec.eq_of_getLsbD_eq fun i hi => ?_
  interval_cases i <;> simp

@[simp] theorem vsField_setComp (ci : BitVec 2) (hs vs tq : BitVec 4) :
    vsField (encodeHeader (.setComp ci hs vs tq)) = vs := by
  simp only [vsField, encodeHeader, bits, placeField]
  refine BitVec.eq_of_getLsbD_eq fun i hi => ?_
  interval_cases i <;> simp

@[simp] theorem tqField_setComp (ci : BitVec 2) (hs vs tq : BitVec 4) :
    tqField (encodeHeader (.setComp ci hs vs tq)) = tq := by
  simp only [tqField, encodeHeader, bits, placeField]
  refine BitVec.eq_of_getLsbD_eq fun i hi => ?_
  interval_cases i <;> simp

@[simp] theorem pqField_loadQt (pq tq : BitVec 4) (e : Vector Word 64) :
    pqField (encodeHeader (.loadQt pq tq e)) = pq := by
  simp only [pqField, encodeHeader, bits, placeField]
  refine BitVec.eq_of_getLsbD_eq fun i hi => ?_
  interval_cases i <;> simp

@[simp] theorem tqField_loadQt (pq tq : BitVec 4) (e : Vector Word 64) :
    tqField (encodeHeader (.loadQt pq tq e)) = tq := by
  simp only [tqField, encodeHeader, bits, placeField]
  refine BitVec.eq_of_getLsbD_eq fun i hi => ?_
  interval_cases i <;> simp

@[simp] theorem heightField_dim (h w : BitVec 16) : heightField (placeField h 16 ||| w.setWidth 32) = h := by
  simp only [heightField, bits, placeField]
  refine BitVec.eq_of_getLsbD_eq fun i hi => ?_
  interval_cases i <;> simp

@[simp] theorem widthField_dim (h w : BitVec 16) : widthField (placeField h 16 ||| w.setWidth 32) = w := by
  simp only [widthField, bits, placeField]
  refine BitVec.eq_of_getLsbD_eq fun i hi => ?_
  interval_cases i <;> simp

end Sys2Proof
end

