-- ==== Sys2Proof/Laws/Memory.lean ====
section
/-! SUPPORT. The laws of the memories: what a read finds after a write, and that a write keeps the canonical form and
the range of the keys. -/

namespace Sys2Proof.Machine

variable {w : Nat}

@[simp] theorem Memory.read_nil (a : Nat) : Memory.read ([] : Memory w) a = none := rfl

theorem Memory.read_cons (k : Nat) (v : BitVec w) (m : Memory w) (a : Nat) :
    Memory.read ((k, v) :: m) a = if k = a then some v else Memory.read m a := rfl

@[simp] theorem cellsFrom_length (a : Nat) (vs : List (BitVec w)) : (cellsFrom a vs).length = vs.length := by
  induction vs generalizing a with
  | nil => rfl
  | cons v vs ih => simp [cellsFrom, ih]

theorem mem_cellsFrom_key {a : Nat} {vs : List (BitVec w)} {c : Nat × BitVec w} (h : c ∈ cellsFrom a vs) :
    a ≤ c.1 ∧ c.1 < a + vs.length := by
  induction vs generalizing a with
  | nil => simp [cellsFrom] at h
  | cons v vs ih =>
    rw [cellsFrom, List.mem_cons] at h
    rcases h with rfl | h
    · simp
    · have := ih h
      simp only [List.length_cons]
      omega

/-- A read of consecutive cells finds the value at the key's place. -/
theorem read_cellsFrom (a b : Nat) (vs : List (BitVec w)) :
    Memory.read (cellsFrom a vs) b = if a ≤ b then vs[b - a]? else none := by
  induction vs generalizing a with
  | nil => simp [cellsFrom]
  | cons v vs ih =>
    rw [cellsFrom, Memory.read_cons, ih]
    by_cases hab : a = b
    · subst hab; simp
    · by_cases hle : a ≤ b
      · have hs : b - a = (b - (a + 1)) + 1 := by omega
        have hle' : a + 1 ≤ b := by omega
        simp [hab, hle, hle', hs]
      · have hle' : ¬ a + 1 ≤ b := by omega
        simp [hab, hle, hle']

theorem Memory.read_append (m n : Memory w) (a : Nat) :
    Memory.read (m ++ n) a = (Memory.read m a).or (Memory.read n a) := by
  induction m with
  | nil => simp
  | cons c m ih =>
    obtain ⟨k, v⟩ := c
    rw [List.cons_append, Memory.read_cons, Memory.read_cons, ih]
    by_cases h : k = a <;> simp [h]

/-- A filter on the keys keeps what is read where the key passes, and nothing else. -/
theorem Memory.read_filter (m : Memory w) (p : Nat → Bool) (a : Nat) :
    Memory.read (m.filter (fun c => p c.1)) a = if p a then Memory.read m a else none := by
  induction m with
  | nil => simp
  | cons c m ih =>
    obtain ⟨k, v⟩ := c
    by_cases hp : p k
    · rw [List.filter_cons_of_pos (by simpa using hp), Memory.read_cons, Memory.read_cons, ih]
      by_cases hk : k = a
      · subst hk; simp [hp]
      · simp [hk]
    · rw [List.filter_cons_of_neg (by simpa using hp), ih, Memory.read_cons]
      by_cases hk : k = a
      · subst hk; simp [hp]
      · simp [hk]

/-- Read after write: the written value inside the written cells, what was there before outside. -/
theorem Memory.read_write (m : Memory w) (a b : Nat) (vs : List (BitVec w)) :
    Memory.read (m.write a vs) b =
      if a ≤ b ∧ b < a + vs.length then vs[b - a]? else Memory.read m b := by
  rw [Memory.write, Memory.read_append, Memory.read_append, read_cellsFrom,
    Memory.read_filter m (fun k => decide (k < a)), Memory.read_filter m (fun k => decide (a + vs.length ≤ k))]
  by_cases h1 : b < a
  · have h2 : ¬ a ≤ b := by omega
    have h3 : ¬ a + vs.length ≤ b := by omega
    simp [h1, h2, h3]
  · by_cases h2 : b < a + vs.length
    · have h3 : a ≤ b := by omega
      have h4 : ¬ a + vs.length ≤ b := by omega
      simp [h1, h2, h3, h4]
    · have h3 : a ≤ b := by omega
      have h4 : a + vs.length ≤ b := by omega
      have h5 : vs[b - a]? = none := by rw [List.getElem?_eq_none_iff]; omega
      simp [h1, h2, h3, h4, h5]

theorem Memory.read_write_outside (m : Memory w) {a b : Nat} (vs : List (BitVec w))
    (h : b < a ∨ a + vs.length ≤ b) : Memory.read (m.write a vs) b = Memory.read m b := by
  rw [Memory.read_write, if_neg (by omega)]

theorem Memory.read_write_inside (m : Memory w) {a b : Nat} (vs : List (BitVec w))
    (h : a ≤ b) (h' : b < a + vs.length) : Memory.read (m.write a vs) b = some (vs[b - a]'(by omega)) := by
  rw [Memory.read_write, if_pos ⟨h, h'⟩, List.getElem?_eq_getElem]

/-- A write never makes a written cell unwritten. -/
theorem Memory.isSome_read_write (m : Memory w) (a b : Nat) (vs : List (BitVec w))
    (h : (Memory.read m b).isSome) : (Memory.read (m.write a vs) b).isSome := by
  by_cases hb : a ≤ b ∧ b < a + vs.length
  · rw [Memory.read_write_inside m vs hb.1 hb.2]; rfl
  · rw [Memory.read_write, if_neg hb]; exact h

/-! ### The canonical form -/

/-- The canonical form, said of all pairs of entries. -/
theorem Memory.wf_iff (m : Memory w) : m.wf = true ↔ m.Pairwise (fun c d => c.1 < d.1) := by
  induction m with
  | nil => simp [Memory.wf]
  | cons c m ih =>
    cases m with
    | nil => simp [Memory.wf]
    | cons d m =>
      obtain ⟨a, x⟩ := c
      obtain ⟨b, y⟩ := d
      rw [Memory.wf, Bool.and_eq_true, ih, List.pairwise_cons (a := (a, x)), decide_eq_true_iff]
      constructor
      · rintro ⟨hab, hp⟩
        refine ⟨fun e he => ?_, hp⟩
        rcases List.mem_cons.1 he with rfl | he
        · exact hab
        · exact lt_trans hab ((List.pairwise_cons.1 hp).1 e he)
      · rintro ⟨h, hp⟩
        exact ⟨h (b, y) (by simp), hp⟩

theorem cellsFrom_pairwise (a : Nat) (vs : List (BitVec w)) :
    (cellsFrom a vs).Pairwise (fun c d => c.1 < d.1) := by
  induction vs generalizing a with
  | nil => exact List.Pairwise.nil
  | cons v vs ih =>
    refine List.pairwise_cons.2 ⟨fun e he => ?_, ih (a + 1)⟩
    have := mem_cellsFrom_key he
    show a < e.1
    omega

/-- Every write keeps the canonical form. -/
theorem Memory.wf_write {m : Memory w} (h : m.wf = true) (a : Nat) (vs : List (BitVec w)) :
    (m.write a vs).wf = true := by
  rw [Memory.wf_iff] at h ⊢
  rw [Memory.write, List.pairwise_append, List.pairwise_append]
  refine ⟨⟨h.filter _, cellsFrom_pairwise a vs, fun c hc d hd => ?_⟩, h.filter _, fun c hc d hd => ?_⟩
  · have h1 := (List.mem_filter.1 hc).2
    have h2 := mem_cellsFrom_key hd
    simp only [decide_eq_true_eq] at h1
    omega
  · have h2 := (List.mem_filter.1 hd).2
    simp only [decide_eq_true_eq] at h2
    rcases List.mem_append.1 hc with hc | hc
    · have h1 := (List.mem_filter.1 hc).2
      simp only [decide_eq_true_eq] at h1
      omega
    · have h1 := mem_cellsFrom_key hc
      omega

theorem Memory.keysIn_iff (m : Memory w) (lo hi : Nat) :
    m.keysIn lo hi = true ↔ ∀ c ∈ m, lo ≤ c.1 ∧ c.1 < hi := by
  simp [Memory.keysIn]

/-- A write inside a range of keys keeps the keys in it. -/
theorem Memory.keysIn_write {m : Memory w} {lo hi : Nat} (h : m.keysIn lo hi = true) (a : Nat)
    (vs : List (BitVec w)) (hlo : lo ≤ a) (hhi : a + vs.length ≤ hi) : (m.write a vs).keysIn lo hi = true := by
  rw [Memory.keysIn_iff] at h ⊢
  intro c hc
  rw [Memory.write, List.mem_append, List.mem_append] at hc
  rcases hc with (hc | hc) | hc
  · exact h c (List.mem_filter.1 hc).1
  · have := mem_cellsFrom_key hc
    omega
  · exact h c (List.mem_filter.1 hc).1

/-- The eight row writes of a block keep the canonical form. -/
theorem writeBlock_wf {m : Memory 8} (h : m.wf = true) (pos : BlockPos) (p : List Byte) :
    (writeBlock pos p m).wf = true := by
  unfold writeBlock
  generalize List.range 8 = ys
  induction ys generalizing m with
  | nil => exact h
  | cons y ys ih => exact ih (Memory.wf_write h _ _)

/-- The row writes of a block never make a written sample unwritten. -/
theorem writeBlock_isSome (m : Memory 8) (pos : BlockPos) (p : List Byte) (b : Nat)
    (h : (Memory.read m b).isSome) : (Memory.read (writeBlock pos p m) b).isSome := by
  unfold writeBlock
  generalize List.range 8 = ys
  induction ys generalizing m with
  | nil => exact h
  | cons y ys ih => exact ih _ (Memory.isSome_read_write m _ b _ h)

end Sys2Proof.Machine
end

