-- ==== Sys2Proof/Laws/State.lean ====
section
/-! SUPPORT. One lemma per field per update, so that no later proof unfolds a record update: what each update of the
state sets, and that it leaves every other field alone. -/

namespace Sys2Proof.Machine

/-! ### `raiseError` (spec/60_exceptions.md R255) -/

@[simp] theorem raiseError_params (c : Cause) (op : BitVec 8) (j : Nat) (s : State) : (raiseError c op j s).params = s.params := rfl
@[simp] theorem raiseError_csi (c : Cause) (op : BitVec 8) (j : Nat) (s : State) : (raiseError c op j s).csi = s.csi := rfl
@[simp] theorem raiseError_ps (c : Cause) (op : BitVec 8) (j : Nat) (s : State) : (raiseError c op j s).ps = .halted := rfl
@[simp] theorem raiseError_fifo (c : Cause) (op : BitVec 8) (j : Nat) (s : State) : (raiseError c op j s).fifo = [] := rfl
@[simp] theorem raiseError_stg (c : Cause) (op : BitVec 8) (j : Nat) (s : State) : (raiseError c op j s).stg = s.stg := rfl
@[simp] theorem raiseError_held (c : Cause) (op : BitVec 8) (j : Nat) (s : State) : (raiseError c op j s).held = s.held := rfl
@[simp] theorem raiseError_doneIE (c : Cause) (op : BitVec 8) (j : Nat) (s : State) : (raiseError c op j s).doneIE = s.doneIE := rfl
@[simp] theorem raiseError_errIE (c : Cause) (op : BitVec 8) (j : Nat) (s : State) : (raiseError c op j s).errIE = s.errIE := rfl
@[simp] theorem raiseError_done (c : Cause) (op : BitVec 8) (j : Nat) (s : State) : (raiseError c op j s).done = s.done := rfl
@[simp] theorem raiseError_err (c : Cause) (op : BitVec 8) (j : Nat) (s : State) : (raiseError c op j s).err = true := rfl
@[simp] theorem raiseError_frameActive (c : Cause) (op : BitVec 8) (j : Nat) (s : State) : (raiseError c op j s).frameActive = false := rfl
@[simp] theorem raiseError_qt0Valid (c : Cause) (op : BitVec 8) (j : Nat) (s : State) : (raiseError c op j s).qt0Valid = s.qt0Valid := rfl
@[simp] theorem raiseError_qt1Valid (c : Cause) (op : BitVec 8) (j : Nat) (s : State) : (raiseError c op j s).qt1Valid = s.qt1Valid := rfl
@[simp] theorem raiseError_cfgValid (c : Cause) (op : BitVec 8) (j : Nat) (s : State) : (raiseError c op j s).cfgValid = s.cfgValid := rfl
@[simp] theorem raiseError_comp0Valid (c : Cause) (op : BitVec 8) (j : Nat) (s : State) : (raiseError c op j s).comp0Valid = s.comp0Valid := rfl
@[simp] theorem raiseError_comp1Valid (c : Cause) (op : BitVec 8) (j : Nat) (s : State) : (raiseError c op j s).comp1Valid = s.comp1Valid := rfl
@[simp] theorem raiseError_comp2Valid (c : Cause) (op : BitVec 8) (j : Nat) (s : State) : (raiseError c op j s).comp2Valid = s.comp2Valid := rfl
@[simp] theorem raiseError_errInfo (c : Cause) (op : BitVec 8) (j : Nat) (s : State) : (raiseError c op j s).errInfo = ⟨c, op, BitVec.ofNat 7 j⟩ := rfl
@[simp] theorem raiseError_frameW (c : Cause) (op : BitVec 8) (j : Nat) (s : State) : (raiseError c op j s).frameW = s.frameW := rfl
@[simp] theorem raiseError_frameH (c : Cause) (op : BitVec 8) (j : Nat) (s : State) : (raiseError c op j s).frameH = s.frameH := rfl
@[simp] theorem raiseError_ncomp (c : Cause) (op : BitVec 8) (j : Nat) (s : State) : (raiseError c op j s).ncomp = s.ncomp := rfl
@[simp] theorem raiseError_comp0 (c : Cause) (op : BitVec 8) (j : Nat) (s : State) : (raiseError c op j s).comp0 = s.comp0 := rfl
@[simp] theorem raiseError_comp1 (c : Cause) (op : BitVec 8) (j : Nat) (s : State) : (raiseError c op j s).comp1 = s.comp1 := rfl
@[simp] theorem raiseError_comp2 (c : Cause) (op : BitVec 8) (j : Nat) (s : State) : (raiseError c op j s).comp2 = s.comp2 := rfl
@[simp] theorem raiseError_mcux (c : Cause) (op : BitVec 8) (j : Nat) (s : State) : (raiseError c op j s).mcux = s.mcux := rfl
@[simp] theorem raiseError_mcuy (c : Cause) (op : BitVec 8) (j : Nat) (s : State) : (raiseError c op j s).mcuy = s.mcuy := rfl
@[simp] theorem raiseError_hmax (c : Cause) (op : BitVec 8) (j : Nat) (s : State) : (raiseError c op j s).hmax = s.hmax := rfl
@[simp] theorem raiseError_vmax (c : Cause) (op : BitVec 8) (j : Nat) (s : State) : (raiseError c op j s).vmax = s.vmax := rfl
@[simp] theorem raiseError_blktotal (c : Cause) (op : BitVec 8) (j : Nat) (s : State) : (raiseError c op j s).blktotal = s.blktotal := rfl
@[simp] theorem raiseError_blkcnt (c : Cause) (op : BitVec 8) (j : Nat) (s : State) : (raiseError c op j s).blkcnt = s.blkcnt := rfl
@[simp] theorem raiseError_qt (c : Cause) (op : BitVec 8) (j : Nat) (s : State) : (raiseError c op j s).qt = s.qt := rfl
@[simp] theorem raiseError_plane (c : Cause) (op : BitVec 8) (j : Nat) (s : State) : (raiseError c op j s).plane = s.plane := rfl
@[simp] theorem raiseError_lastdq (c : Cause) (op : BitVec 8) (j : Nat) (s : State) : (raiseError c op j s).lastdq = s.lastdq := rfl
@[simp] theorem raiseError_lastblk (c : Cause) (op : BitVec 8) (j : Nat) (s : State) : (raiseError c op j s).lastblk = s.lastblk := rfl
@[simp] theorem raiseError_outm (c : Cause) (op : BitVec 8) (j : Nat) (s : State) : (raiseError c op j s).outm = s.outm := rfl
@[simp] theorem raiseError_draws (c : Cause) (op : BitVec 8) (j : Nat) (s : State) : (raiseError c op j s).draws = s.draws := rfl
@[simp] theorem raiseError_agenda (c : Cause) (op : BitVec 8) (j : Nat) (s : State) : (raiseError c op j s).agenda = s.agenda := rfl
@[simp] theorem raiseError_resp (c : Cause) (op : BitVec 8) (j : Nat) (s : State) : (raiseError c op j s).resp = s.resp := rfl

/-! ### `popWord` (spec/30_encoding.md R110) -/

@[simp] theorem popWord_params (rest : List Word) (s : State) : (popWord rest s).params = s.params := rfl
@[simp] theorem popWord_csi (rest : List Word) (s : State) : (popWord rest s).csi = s.csi + 1 := rfl
@[simp] theorem popWord_ps (rest : List Word) (s : State) : (popWord rest s).ps = s.ps := rfl
@[simp] theorem popWord_fifo (rest : List Word) (s : State) : (popWord rest s).fifo = rest := rfl
@[simp] theorem popWord_stg (rest : List Word) (s : State) : (popWord rest s).stg = s.stg := rfl
@[simp] theorem popWord_held (rest : List Word) (s : State) : (popWord rest s).held = s.held := rfl
@[simp] theorem popWord_doneIE (rest : List Word) (s : State) : (popWord rest s).doneIE = s.doneIE := rfl
@[simp] theorem popWord_errIE (rest : List Word) (s : State) : (popWord rest s).errIE = s.errIE := rfl
@[simp] theorem popWord_done (rest : List Word) (s : State) : (popWord rest s).done = s.done := rfl
@[simp] theorem popWord_err (rest : List Word) (s : State) : (popWord rest s).err = s.err := rfl
@[simp] theorem popWord_frameActive (rest : List Word) (s : State) : (popWord rest s).frameActive = s.frameActive := rfl
@[simp] theorem popWord_qt0Valid (rest : List Word) (s : State) : (popWord rest s).qt0Valid = s.qt0Valid := rfl
@[simp] theorem popWord_qt1Valid (rest : List Word) (s : State) : (popWord rest s).qt1Valid = s.qt1Valid := rfl
@[simp] theorem popWord_cfgValid (rest : List Word) (s : State) : (popWord rest s).cfgValid = s.cfgValid := rfl
@[simp] theorem popWord_comp0Valid (rest : List Word) (s : State) : (popWord rest s).comp0Valid = s.comp0Valid := rfl
@[simp] theorem popWord_comp1Valid (rest : List Word) (s : State) : (popWord rest s).comp1Valid = s.comp1Valid := rfl
@[simp] theorem popWord_comp2Valid (rest : List Word) (s : State) : (popWord rest s).comp2Valid = s.comp2Valid := rfl
@[simp] theorem popWord_errInfo (rest : List Word) (s : State) : (popWord rest s).errInfo = s.errInfo := rfl
@[simp] theorem popWord_frameW (rest : List Word) (s : State) : (popWord rest s).frameW = s.frameW := rfl
@[simp] theorem popWord_frameH (rest : List Word) (s : State) : (popWord rest s).frameH = s.frameH := rfl
@[simp] theorem popWord_ncomp (rest : List Word) (s : State) : (popWord rest s).ncomp = s.ncomp := rfl
@[simp] theorem popWord_comp0 (rest : List Word) (s : State) : (popWord rest s).comp0 = s.comp0 := rfl
@[simp] theorem popWord_comp1 (rest : List Word) (s : State) : (popWord rest s).comp1 = s.comp1 := rfl
@[simp] theorem popWord_comp2 (rest : List Word) (s : State) : (popWord rest s).comp2 = s.comp2 := rfl
@[simp] theorem popWord_mcux (rest : List Word) (s : State) : (popWord rest s).mcux = s.mcux := rfl
@[simp] theorem popWord_mcuy (rest : List Word) (s : State) : (popWord rest s).mcuy = s.mcuy := rfl
@[simp] theorem popWord_hmax (rest : List Word) (s : State) : (popWord rest s).hmax = s.hmax := rfl
@[simp] theorem popWord_vmax (rest : List Word) (s : State) : (popWord rest s).vmax = s.vmax := rfl
@[simp] theorem popWord_blktotal (rest : List Word) (s : State) : (popWord rest s).blktotal = s.blktotal := rfl
@[simp] theorem popWord_blkcnt (rest : List Word) (s : State) : (popWord rest s).blkcnt = s.blkcnt := rfl
@[simp] theorem popWord_qt (rest : List Word) (s : State) : (popWord rest s).qt = s.qt := rfl
@[simp] theorem popWord_plane (rest : List Word) (s : State) : (popWord rest s).plane = s.plane := rfl
@[simp] theorem popWord_lastdq (rest : List Word) (s : State) : (popWord rest s).lastdq = s.lastdq := rfl
@[simp] theorem popWord_lastblk (rest : List Word) (s : State) : (popWord rest s).lastblk = s.lastblk := rfl
@[simp] theorem popWord_outm (rest : List Word) (s : State) : (popWord rest s).outm = s.outm := rfl
@[simp] theorem popWord_draws (rest : List Word) (s : State) : (popWord rest s).draws = s.draws := rfl
@[simp] theorem popWord_agenda (rest : List Word) (s : State) : (popWord rest s).agenda = s.agenda := rfl
@[simp] theorem popWord_resp (rest : List Word) (s : State) : (popWord rest s).resp = s.resp := rfl

/-! ### `stage` (spec/10_state.md R63) -/

@[simp] theorem stage_params (j : Nat) (w : Word) (s : State) : (stage j w s).params = s.params := rfl
@[simp] theorem stage_csi (j : Nat) (w : Word) (s : State) : (stage j w s).csi = s.csi := rfl
@[simp] theorem stage_ps (j : Nat) (w : Word) (s : State) : (stage j w s).ps = s.ps := rfl
@[simp] theorem stage_fifo (j : Nat) (w : Word) (s : State) : (stage j w s).fifo = s.fifo := rfl
@[simp] theorem stage_stg (j : Nat) (w : Word) (s : State) : (stage j w s).stg = s.stg.write j [w] := rfl
@[simp] theorem stage_held (j : Nat) (w : Word) (s : State) : (stage j w s).held = s.held := rfl
@[simp] theorem stage_doneIE (j : Nat) (w : Word) (s : State) : (stage j w s).doneIE = s.doneIE := rfl
@[simp] theorem stage_errIE (j : Nat) (w : Word) (s : State) : (stage j w s).errIE = s.errIE := rfl
@[simp] theorem stage_done (j : Nat) (w : Word) (s : State) : (stage j w s).done = s.done := rfl
@[simp] theorem stage_err (j : Nat) (w : Word) (s : State) : (stage j w s).err = s.err := rfl
@[simp] theorem stage_frameActive (j : Nat) (w : Word) (s : State) : (stage j w s).frameActive = s.frameActive := rfl
@[simp] theorem stage_qt0Valid (j : Nat) (w : Word) (s : State) : (stage j w s).qt0Valid = s.qt0Valid := rfl
@[simp] theorem stage_qt1Valid (j : Nat) (w : Word) (s : State) : (stage j w s).qt1Valid = s.qt1Valid := rfl
@[simp] theorem stage_cfgValid (j : Nat) (w : Word) (s : State) : (stage j w s).cfgValid = s.cfgValid := rfl
@[simp] theorem stage_comp0Valid (j : Nat) (w : Word) (s : State) : (stage j w s).comp0Valid = s.comp0Valid := rfl
@[simp] theorem stage_comp1Valid (j : Nat) (w : Word) (s : State) : (stage j w s).comp1Valid = s.comp1Valid := rfl
@[simp] theorem stage_comp2Valid (j : Nat) (w : Word) (s : State) : (stage j w s).comp2Valid = s.comp2Valid := rfl
@[simp] theorem stage_errInfo (j : Nat) (w : Word) (s : State) : (stage j w s).errInfo = s.errInfo := rfl
@[simp] theorem stage_frameW (j : Nat) (w : Word) (s : State) : (stage j w s).frameW = s.frameW := rfl
@[simp] theorem stage_frameH (j : Nat) (w : Word) (s : State) : (stage j w s).frameH = s.frameH := rfl
@[simp] theorem stage_ncomp (j : Nat) (w : Word) (s : State) : (stage j w s).ncomp = s.ncomp := rfl
@[simp] theorem stage_comp0 (j : Nat) (w : Word) (s : State) : (stage j w s).comp0 = s.comp0 := rfl
@[simp] theorem stage_comp1 (j : Nat) (w : Word) (s : State) : (stage j w s).comp1 = s.comp1 := rfl
@[simp] theorem stage_comp2 (j : Nat) (w : Word) (s : State) : (stage j w s).comp2 = s.comp2 := rfl
@[simp] theorem stage_mcux (j : Nat) (w : Word) (s : State) : (stage j w s).mcux = s.mcux := rfl
@[simp] theorem stage_mcuy (j : Nat) (w : Word) (s : State) : (stage j w s).mcuy = s.mcuy := rfl
@[simp] theorem stage_hmax (j : Nat) (w : Word) (s : State) : (stage j w s).hmax = s.hmax := rfl
@[simp] theorem stage_vmax (j : Nat) (w : Word) (s : State) : (stage j w s).vmax = s.vmax := rfl
@[simp] theorem stage_blktotal (j : Nat) (w : Word) (s : State) : (stage j w s).blktotal = s.blktotal := rfl
@[simp] theorem stage_blkcnt (j : Nat) (w : Word) (s : State) : (stage j w s).blkcnt = s.blkcnt := rfl
@[simp] theorem stage_qt (j : Nat) (w : Word) (s : State) : (stage j w s).qt = s.qt := rfl
@[simp] theorem stage_plane (j : Nat) (w : Word) (s : State) : (stage j w s).plane = s.plane := rfl
@[simp] theorem stage_lastdq (j : Nat) (w : Word) (s : State) : (stage j w s).lastdq = s.lastdq := rfl
@[simp] theorem stage_lastblk (j : Nat) (w : Word) (s : State) : (stage j w s).lastblk = s.lastblk := rfl
@[simp] theorem stage_outm (j : Nat) (w : Word) (s : State) : (stage j w s).outm = s.outm := rfl
@[simp] theorem stage_draws (j : Nat) (w : Word) (s : State) : (stage j w s).draws = s.draws := rfl
@[simp] theorem stage_agenda (j : Nat) (w : Word) (s : State) : (stage j w s).agenda = s.agenda := rfl
@[simp] theorem stage_resp (j : Nat) (w : Word) (s : State) : (stage j w s).resp = s.resp := rfl

/-! ### `commandComplete` (spec/30_encoding.md R110) -/

@[simp] theorem commandComplete_params (s : State) : (commandComplete s).params = s.params := rfl
@[simp] theorem commandComplete_csi (s : State) : (commandComplete s).csi = s.csi := rfl
@[simp] theorem commandComplete_ps (s : State) : (commandComplete s).ps = .idle := rfl
@[simp] theorem commandComplete_fifo (s : State) : (commandComplete s).fifo = s.fifo := rfl
@[simp] theorem commandComplete_stg (s : State) : (commandComplete s).stg = s.stg := rfl
@[simp] theorem commandComplete_held (s : State) : (commandComplete s).held = s.held := rfl
@[simp] theorem commandComplete_doneIE (s : State) : (commandComplete s).doneIE = s.doneIE := rfl
@[simp] theorem commandComplete_errIE (s : State) : (commandComplete s).errIE = s.errIE := rfl
@[simp] theorem commandComplete_done (s : State) : (commandComplete s).done = s.done := rfl
@[simp] theorem commandComplete_err (s : State) : (commandComplete s).err = s.err := rfl
@[simp] theorem commandComplete_frameActive (s : State) : (commandComplete s).frameActive = s.frameActive := rfl
@[simp] theorem commandComplete_qt0Valid (s : State) : (commandComplete s).qt0Valid = s.qt0Valid := rfl
@[simp] theorem commandComplete_qt1Valid (s : State) : (commandComplete s).qt1Valid = s.qt1Valid := rfl
@[simp] theorem commandComplete_cfgValid (s : State) : (commandComplete s).cfgValid = s.cfgValid := rfl
@[simp] theorem commandComplete_comp0Valid (s : State) : (commandComplete s).comp0Valid = s.comp0Valid := rfl
@[simp] theorem commandComplete_comp1Valid (s : State) : (commandComplete s).comp1Valid = s.comp1Valid := rfl
@[simp] theorem commandComplete_comp2Valid (s : State) : (commandComplete s).comp2Valid = s.comp2Valid := rfl
@[simp] theorem commandComplete_errInfo (s : State) : (commandComplete s).errInfo = s.errInfo := rfl
@[simp] theorem commandComplete_frameW (s : State) : (commandComplete s).frameW = s.frameW := rfl
@[simp] theorem commandComplete_frameH (s : State) : (commandComplete s).frameH = s.frameH := rfl
@[simp] theorem commandComplete_ncomp (s : State) : (commandComplete s).ncomp = s.ncomp := rfl
@[simp] theorem commandComplete_comp0 (s : State) : (commandComplete s).comp0 = s.comp0 := rfl
@[simp] theorem commandComplete_comp1 (s : State) : (commandComplete s).comp1 = s.comp1 := rfl
@[simp] theorem commandComplete_comp2 (s : State) : (commandComplete s).comp2 = s.comp2 := rfl
@[simp] theorem commandComplete_mcux (s : State) : (commandComplete s).mcux = s.mcux := rfl
@[simp] theorem commandComplete_mcuy (s : State) : (commandComplete s).mcuy = s.mcuy := rfl
@[simp] theorem commandComplete_hmax (s : State) : (commandComplete s).hmax = s.hmax := rfl
@[simp] theorem commandComplete_vmax (s : State) : (commandComplete s).vmax = s.vmax := rfl
@[simp] theorem commandComplete_blktotal (s : State) : (commandComplete s).blktotal = s.blktotal := rfl
@[simp] theorem commandComplete_blkcnt (s : State) : (commandComplete s).blkcnt = s.blkcnt := rfl
@[simp] theorem commandComplete_qt (s : State) : (commandComplete s).qt = s.qt := rfl
@[simp] theorem commandComplete_plane (s : State) : (commandComplete s).plane = s.plane := rfl
@[simp] theorem commandComplete_lastdq (s : State) : (commandComplete s).lastdq = s.lastdq := rfl
@[simp] theorem commandComplete_lastblk (s : State) : (commandComplete s).lastblk = s.lastblk := rfl
@[simp] theorem commandComplete_outm (s : State) : (commandComplete s).outm = s.outm := rfl
@[simp] theorem commandComplete_draws (s : State) : (commandComplete s).draws = s.draws + 1 := rfl
@[simp] theorem commandComplete_agenda (s : State) : (commandComplete s).agenda = s.agenda := rfl
@[simp] theorem commandComplete_resp (s : State) : (commandComplete s).resp = s.resp := rfl

/-! ### `commitSetFrame` (spec/41_frame.md R161) -/

@[simp] theorem commitSetFrame_params (nc : BitVec 4) (h w : BitVec 16) (s : State) : (commitSetFrame nc h w s).params = s.params := rfl
@[simp] theorem commitSetFrame_csi (nc : BitVec 4) (h w : BitVec 16) (s : State) : (commitSetFrame nc h w s).csi = s.csi := rfl
@[simp] theorem commitSetFrame_ps (nc : BitVec 4) (h w : BitVec 16) (s : State) : (commitSetFrame nc h w s).ps = s.ps := rfl
@[simp] theorem commitSetFrame_fifo (nc : BitVec 4) (h w : BitVec 16) (s : State) : (commitSetFrame nc h w s).fifo = s.fifo := rfl
@[simp] theorem commitSetFrame_stg (nc : BitVec 4) (h w : BitVec 16) (s : State) : (commitSetFrame nc h w s).stg = s.stg := rfl
@[simp] theorem commitSetFrame_held (nc : BitVec 4) (h w : BitVec 16) (s : State) : (commitSetFrame nc h w s).held = s.held := rfl
@[simp] theorem commitSetFrame_doneIE (nc : BitVec 4) (h w : BitVec 16) (s : State) : (commitSetFrame nc h w s).doneIE = s.doneIE := rfl
@[simp] theorem commitSetFrame_errIE (nc : BitVec 4) (h w : BitVec 16) (s : State) : (commitSetFrame nc h w s).errIE = s.errIE := rfl
@[simp] theorem commitSetFrame_done (nc : BitVec 4) (h w : BitVec 16) (s : State) : (commitSetFrame nc h w s).done = s.done := rfl
@[simp] theorem commitSetFrame_err (nc : BitVec 4) (h w : BitVec 16) (s : State) : (commitSetFrame nc h w s).err = s.err := rfl
@[simp] theorem commitSetFrame_frameActive (nc : BitVec 4) (h w : BitVec 16) (s : State) : (commitSetFrame nc h w s).frameActive = s.frameActive := rfl
@[simp] theorem commitSetFrame_qt0Valid (nc : BitVec 4) (h w : BitVec 16) (s : State) : (commitSetFrame nc h w s).qt0Valid = s.qt0Valid := rfl
@[simp] theorem commitSetFrame_qt1Valid (nc : BitVec 4) (h w : BitVec 16) (s : State) : (commitSetFrame nc h w s).qt1Valid = s.qt1Valid := rfl
@[simp] theorem commitSetFrame_cfgValid (nc : BitVec 4) (h w : BitVec 16) (s : State) : (commitSetFrame nc h w s).cfgValid = true := rfl
@[simp] theorem commitSetFrame_comp0Valid (nc : BitVec 4) (h w : BitVec 16) (s : State) : (commitSetFrame nc h w s).comp0Valid = s.comp0Valid := rfl
@[simp] theorem commitSetFrame_comp1Valid (nc : BitVec 4) (h w : BitVec 16) (s : State) : (commitSetFrame nc h w s).comp1Valid = s.comp1Valid := rfl
@[simp] theorem commitSetFrame_comp2Valid (nc : BitVec 4) (h w : BitVec 16) (s : State) : (commitSetFrame nc h w s).comp2Valid = s.comp2Valid := rfl
@[simp] theorem commitSetFrame_errInfo (nc : BitVec 4) (h w : BitVec 16) (s : State) : (commitSetFrame nc h w s).errInfo = s.errInfo := rfl
@[simp] theorem commitSetFrame_frameW (nc : BitVec 4) (h w : BitVec 16) (s : State) : (commitSetFrame nc h w s).frameW = w := rfl
@[simp] theorem commitSetFrame_frameH (nc : BitVec 4) (h w : BitVec 16) (s : State) : (commitSetFrame nc h w s).frameH = h := rfl
@[simp] theorem commitSetFrame_ncomp (nc : BitVec 4) (h w : BitVec 16) (s : State) : (commitSetFrame nc h w s).ncomp = nc := rfl
@[simp] theorem commitSetFrame_comp0 (nc : BitVec 4) (h w : BitVec 16) (s : State) : (commitSetFrame nc h w s).comp0 = s.comp0 := rfl
@[simp] theorem commitSetFrame_comp1 (nc : BitVec 4) (h w : BitVec 16) (s : State) : (commitSetFrame nc h w s).comp1 = s.comp1 := rfl
@[simp] theorem commitSetFrame_comp2 (nc : BitVec 4) (h w : BitVec 16) (s : State) : (commitSetFrame nc h w s).comp2 = s.comp2 := rfl
@[simp] theorem commitSetFrame_mcux (nc : BitVec 4) (h w : BitVec 16) (s : State) : (commitSetFrame nc h w s).mcux = s.mcux := rfl
@[simp] theorem commitSetFrame_mcuy (nc : BitVec 4) (h w : BitVec 16) (s : State) : (commitSetFrame nc h w s).mcuy = s.mcuy := rfl
@[simp] theorem commitSetFrame_hmax (nc : BitVec 4) (h w : BitVec 16) (s : State) : (commitSetFrame nc h w s).hmax = s.hmax := rfl
@[simp] theorem commitSetFrame_vmax (nc : BitVec 4) (h w : BitVec 16) (s : State) : (commitSetFrame nc h w s).vmax = s.vmax := rfl
@[simp] theorem commitSetFrame_blktotal (nc : BitVec 4) (h w : BitVec 16) (s : State) : (commitSetFrame nc h w s).blktotal = s.blktotal := rfl
@[simp] theorem commitSetFrame_blkcnt (nc : BitVec 4) (h w : BitVec 16) (s : State) : (commitSetFrame nc h w s).blkcnt = s.blkcnt := rfl
@[simp] theorem commitSetFrame_qt (nc : BitVec 4) (h w : BitVec 16) (s : State) : (commitSetFrame nc h w s).qt = s.qt := rfl
@[simp] theorem commitSetFrame_plane (nc : BitVec 4) (h w : BitVec 16) (s : State) : (commitSetFrame nc h w s).plane = s.plane := rfl
@[simp] theorem commitSetFrame_lastdq (nc : BitVec 4) (h w : BitVec 16) (s : State) : (commitSetFrame nc h w s).lastdq = s.lastdq := rfl
@[simp] theorem commitSetFrame_lastblk (nc : BitVec 4) (h w : BitVec 16) (s : State) : (commitSetFrame nc h w s).lastblk = s.lastblk := rfl
@[simp] theorem commitSetFrame_outm (nc : BitVec 4) (h w : BitVec 16) (s : State) : (commitSetFrame nc h w s).outm = s.outm := rfl
@[simp] theorem commitSetFrame_draws (nc : BitVec 4) (h w : BitVec 16) (s : State) : (commitSetFrame nc h w s).draws = s.draws := rfl
@[simp] theorem commitSetFrame_agenda (nc : BitVec 4) (h w : BitVec 16) (s : State) : (commitSetFrame nc h w s).agenda = s.agenda := rfl
@[simp] theorem commitSetFrame_resp (nc : BitVec 4) (h w : BitVec 16) (s : State) : (commitSetFrame nc h w s).resp = s.resp := rfl

/-! ### `commitStart` (spec/41_frame.md R170) -/

@[simp] theorem commitStart_params (s : State) : (commitStart s).params = s.params := rfl
@[simp] theorem commitStart_csi (s : State) : (commitStart s).csi = s.csi := rfl
@[simp] theorem commitStart_ps (s : State) : (commitStart s).ps = s.ps := rfl
@[simp] theorem commitStart_fifo (s : State) : (commitStart s).fifo = s.fifo := rfl
@[simp] theorem commitStart_stg (s : State) : (commitStart s).stg = s.stg := rfl
@[simp] theorem commitStart_held (s : State) : (commitStart s).held = s.held := rfl
@[simp] theorem commitStart_doneIE (s : State) : (commitStart s).doneIE = s.doneIE := rfl
@[simp] theorem commitStart_errIE (s : State) : (commitStart s).errIE = s.errIE := rfl
@[simp] theorem commitStart_done (s : State) : (commitStart s).done = false := rfl
@[simp] theorem commitStart_err (s : State) : (commitStart s).err = s.err := rfl
@[simp] theorem commitStart_frameActive (s : State) : (commitStart s).frameActive = true := rfl
@[simp] theorem commitStart_qt0Valid (s : State) : (commitStart s).qt0Valid = s.qt0Valid := rfl
@[simp] theorem commitStart_qt1Valid (s : State) : (commitStart s).qt1Valid = s.qt1Valid := rfl
@[simp] theorem commitStart_cfgValid (s : State) : (commitStart s).cfgValid = s.cfgValid := rfl
@[simp] theorem commitStart_comp0Valid (s : State) : (commitStart s).comp0Valid = s.comp0Valid := rfl
@[simp] theorem commitStart_comp1Valid (s : State) : (commitStart s).comp1Valid = s.comp1Valid := rfl
@[simp] theorem commitStart_comp2Valid (s : State) : (commitStart s).comp2Valid = s.comp2Valid := rfl
@[simp] theorem commitStart_errInfo (s : State) : (commitStart s).errInfo = s.errInfo := rfl
@[simp] theorem commitStart_frameW (s : State) : (commitStart s).frameW = s.frameW := rfl
@[simp] theorem commitStart_frameH (s : State) : (commitStart s).frameH = s.frameH := rfl
@[simp] theorem commitStart_ncomp (s : State) : (commitStart s).ncomp = s.ncomp := rfl
@[simp] theorem commitStart_comp0 (s : State) : (commitStart s).comp0 = s.comp0 := rfl
@[simp] theorem commitStart_comp1 (s : State) : (commitStart s).comp1 = s.comp1 := rfl
@[simp] theorem commitStart_comp2 (s : State) : (commitStart s).comp2 = s.comp2 := rfl
@[simp] theorem commitStart_mcux (s : State) : (commitStart s).mcux = BitVec.ofNat 16 (mcuCount s.frameW.toNat (maxHs s.activeComps)) := rfl
@[simp] theorem commitStart_mcuy (s : State) : (commitStart s).mcuy = BitVec.ofNat 16 (mcuCount s.frameH.toNat (maxVs s.activeComps)) := rfl
@[simp] theorem commitStart_hmax (s : State) : (commitStart s).hmax = BitVec.ofNat 4 (maxHs s.activeComps) := rfl
@[simp] theorem commitStart_vmax (s : State) : (commitStart s).vmax = BitVec.ofNat 4 (maxVs s.activeComps) := rfl
@[simp] theorem commitStart_blktotal (s : State) : (commitStart s).blktotal = BitVec.ofNat 32 (mcuCount s.frameW.toNat (maxHs s.activeComps) * mcuCount s.frameH.toNat (maxVs s.activeComps) * blocksPerMcu s.activeComps) := rfl
@[simp] theorem commitStart_blkcnt (s : State) : (commitStart s).blkcnt = 0 := rfl
@[simp] theorem commitStart_qt (s : State) : (commitStart s).qt = s.qt := rfl
@[simp] theorem commitStart_plane (s : State) : (commitStart s).plane = s.plane := rfl
@[simp] theorem commitStart_lastdq (s : State) : (commitStart s).lastdq = s.lastdq := rfl
@[simp] theorem commitStart_lastblk (s : State) : (commitStart s).lastblk = s.lastblk := rfl
@[simp] theorem commitStart_outm (s : State) : (commitStart s).outm = s.outm := rfl
@[simp] theorem commitStart_draws (s : State) : (commitStart s).draws = s.draws := rfl
@[simp] theorem commitStart_agenda (s : State) : (commitStart s).agenda = s.agenda := rfl
@[simp] theorem commitStart_resp (s : State) : (commitStart s).resp = s.resp := rfl

/-! ### `storeBlock` (spec/42_block.md R198, R199) -/

@[simp] theorem storeBlock_params (pos : BlockPos) (d : List Int) (s : State) : (storeBlock pos d s).params = s.params := rfl
@[simp] theorem storeBlock_csi (pos : BlockPos) (d : List Int) (s : State) : (storeBlock pos d s).csi = s.csi := rfl
@[simp] theorem storeBlock_ps (pos : BlockPos) (d : List Int) (s : State) : (storeBlock pos d s).ps = s.ps := rfl
@[simp] theorem storeBlock_fifo (pos : BlockPos) (d : List Int) (s : State) : (storeBlock pos d s).fifo = s.fifo := rfl
@[simp] theorem storeBlock_stg (pos : BlockPos) (d : List Int) (s : State) : (storeBlock pos d s).stg = s.stg := rfl
@[simp] theorem storeBlock_held (pos : BlockPos) (d : List Int) (s : State) : (storeBlock pos d s).held = s.held := rfl
@[simp] theorem storeBlock_doneIE (pos : BlockPos) (d : List Int) (s : State) : (storeBlock pos d s).doneIE = s.doneIE := rfl
@[simp] theorem storeBlock_errIE (pos : BlockPos) (d : List Int) (s : State) : (storeBlock pos d s).errIE = s.errIE := rfl
@[simp] theorem storeBlock_done (pos : BlockPos) (d : List Int) (s : State) : (storeBlock pos d s).done = s.done := rfl
@[simp] theorem storeBlock_err (pos : BlockPos) (d : List Int) (s : State) : (storeBlock pos d s).err = s.err := rfl
@[simp] theorem storeBlock_frameActive (pos : BlockPos) (d : List Int) (s : State) : (storeBlock pos d s).frameActive = s.frameActive := rfl
@[simp] theorem storeBlock_qt0Valid (pos : BlockPos) (d : List Int) (s : State) : (storeBlock pos d s).qt0Valid = s.qt0Valid := rfl
@[simp] theorem storeBlock_qt1Valid (pos : BlockPos) (d : List Int) (s : State) : (storeBlock pos d s).qt1Valid = s.qt1Valid := rfl
@[simp] theorem storeBlock_cfgValid (pos : BlockPos) (d : List Int) (s : State) : (storeBlock pos d s).cfgValid = s.cfgValid := rfl
@[simp] theorem storeBlock_comp0Valid (pos : BlockPos) (d : List Int) (s : State) : (storeBlock pos d s).comp0Valid = s.comp0Valid := rfl
@[simp] theorem storeBlock_comp1Valid (pos : BlockPos) (d : List Int) (s : State) : (storeBlock pos d s).comp1Valid = s.comp1Valid := rfl
@[simp] theorem storeBlock_comp2Valid (pos : BlockPos) (d : List Int) (s : State) : (storeBlock pos d s).comp2Valid = s.comp2Valid := rfl
@[simp] theorem storeBlock_errInfo (pos : BlockPos) (d : List Int) (s : State) : (storeBlock pos d s).errInfo = s.errInfo := rfl
@[simp] theorem storeBlock_frameW (pos : BlockPos) (d : List Int) (s : State) : (storeBlock pos d s).frameW = s.frameW := rfl
@[simp] theorem storeBlock_frameH (pos : BlockPos) (d : List Int) (s : State) : (storeBlock pos d s).frameH = s.frameH := rfl
@[simp] theorem storeBlock_ncomp (pos : BlockPos) (d : List Int) (s : State) : (storeBlock pos d s).ncomp = s.ncomp := rfl
@[simp] theorem storeBlock_comp0 (pos : BlockPos) (d : List Int) (s : State) : (storeBlock pos d s).comp0 = s.comp0 := rfl
@[simp] theorem storeBlock_comp1 (pos : BlockPos) (d : List Int) (s : State) : (storeBlock pos d s).comp1 = s.comp1 := rfl
@[simp] theorem storeBlock_comp2 (pos : BlockPos) (d : List Int) (s : State) : (storeBlock pos d s).comp2 = s.comp2 := rfl
@[simp] theorem storeBlock_mcux (pos : BlockPos) (d : List Int) (s : State) : (storeBlock pos d s).mcux = s.mcux := rfl
@[simp] theorem storeBlock_mcuy (pos : BlockPos) (d : List Int) (s : State) : (storeBlock pos d s).mcuy = s.mcuy := rfl
@[simp] theorem storeBlock_hmax (pos : BlockPos) (d : List Int) (s : State) : (storeBlock pos d s).hmax = s.hmax := rfl
@[simp] theorem storeBlock_vmax (pos : BlockPos) (d : List Int) (s : State) : (storeBlock pos d s).vmax = s.vmax := rfl
@[simp] theorem storeBlock_blktotal (pos : BlockPos) (d : List Int) (s : State) : (storeBlock pos d s).blktotal = s.blktotal := rfl
@[simp] theorem storeBlock_blkcnt (pos : BlockPos) (d : List Int) (s : State) : (storeBlock pos d s).blkcnt = s.blkcnt + 1 := rfl
@[simp] theorem storeBlock_qt (pos : BlockPos) (d : List Int) (s : State) : (storeBlock pos d s).qt = s.qt := rfl
@[simp] theorem storeBlock_plane (pos : BlockPos) (d : List Int) (s : State) : (storeBlock pos d s).plane = writeBlock pos (blockSamples d) s.plane := rfl
@[simp] theorem storeBlock_lastdq (pos : BlockPos) (d : List Int) (s : State) : (storeBlock pos d s).lastdq = s.lastdq.write 0 (d.map (BitVec.ofInt 32)) := rfl
@[simp] theorem storeBlock_lastblk (pos : BlockPos) (d : List Int) (s : State) : (storeBlock pos d s).lastblk = s.lastblk.write 0 (blockSamples d) := rfl
@[simp] theorem storeBlock_outm (pos : BlockPos) (d : List Int) (s : State) : (storeBlock pos d s).outm = s.outm := rfl
@[simp] theorem storeBlock_draws (pos : BlockPos) (d : List Int) (s : State) : (storeBlock pos d s).draws = s.draws + 1 := rfl
@[simp] theorem storeBlock_agenda (pos : BlockPos) (d : List Int) (s : State) : (storeBlock pos d s).agenda = s.agenda := rfl
@[simp] theorem storeBlock_resp (pos : BlockPos) (d : List Int) (s : State) : (storeBlock pos d s).resp = s.resp := rfl

/-! ### `commitFinish` (spec/43_reconstruct.md R220) -/

@[simp] theorem commitFinish_params (s : State) : (commitFinish s).params = s.params := rfl
@[simp] theorem commitFinish_csi (s : State) : (commitFinish s).csi = s.csi := rfl
@[simp] theorem commitFinish_ps (s : State) : (commitFinish s).ps = s.ps := rfl
@[simp] theorem commitFinish_fifo (s : State) : (commitFinish s).fifo = s.fifo := rfl
@[simp] theorem commitFinish_stg (s : State) : (commitFinish s).stg = s.stg := rfl
@[simp] theorem commitFinish_held (s : State) : (commitFinish s).held = s.held := rfl
@[simp] theorem commitFinish_doneIE (s : State) : (commitFinish s).doneIE = s.doneIE := rfl
@[simp] theorem commitFinish_errIE (s : State) : (commitFinish s).errIE = s.errIE := rfl
@[simp] theorem commitFinish_done (s : State) : (commitFinish s).done = true := rfl
@[simp] theorem commitFinish_err (s : State) : (commitFinish s).err = s.err := rfl
@[simp] theorem commitFinish_frameActive (s : State) : (commitFinish s).frameActive = false := rfl
@[simp] theorem commitFinish_qt0Valid (s : State) : (commitFinish s).qt0Valid = s.qt0Valid := rfl
@[simp] theorem commitFinish_qt1Valid (s : State) : (commitFinish s).qt1Valid = s.qt1Valid := rfl
@[simp] theorem commitFinish_cfgValid (s : State) : (commitFinish s).cfgValid = s.cfgValid := rfl
@[simp] theorem commitFinish_comp0Valid (s : State) : (commitFinish s).comp0Valid = s.comp0Valid := rfl
@[simp] theorem commitFinish_comp1Valid (s : State) : (commitFinish s).comp1Valid = s.comp1Valid := rfl
@[simp] theorem commitFinish_comp2Valid (s : State) : (commitFinish s).comp2Valid = s.comp2Valid := rfl
@[simp] theorem commitFinish_errInfo (s : State) : (commitFinish s).errInfo = s.errInfo := rfl
@[simp] theorem commitFinish_frameW (s : State) : (commitFinish s).frameW = s.frameW := rfl
@[simp] theorem commitFinish_frameH (s : State) : (commitFinish s).frameH = s.frameH := rfl
@[simp] theorem commitFinish_ncomp (s : State) : (commitFinish s).ncomp = s.ncomp := rfl
@[simp] theorem commitFinish_comp0 (s : State) : (commitFinish s).comp0 = s.comp0 := rfl
@[simp] theorem commitFinish_comp1 (s : State) : (commitFinish s).comp1 = s.comp1 := rfl
@[simp] theorem commitFinish_comp2 (s : State) : (commitFinish s).comp2 = s.comp2 := rfl
@[simp] theorem commitFinish_mcux (s : State) : (commitFinish s).mcux = s.mcux := rfl
@[simp] theorem commitFinish_mcuy (s : State) : (commitFinish s).mcuy = s.mcuy := rfl
@[simp] theorem commitFinish_hmax (s : State) : (commitFinish s).hmax = s.hmax := rfl
@[simp] theorem commitFinish_vmax (s : State) : (commitFinish s).vmax = s.vmax := rfl
@[simp] theorem commitFinish_blktotal (s : State) : (commitFinish s).blktotal = s.blktotal := rfl
@[simp] theorem commitFinish_blkcnt (s : State) : (commitFinish s).blkcnt = s.blkcnt := rfl
@[simp] theorem commitFinish_qt (s : State) : (commitFinish s).qt = s.qt := rfl
@[simp] theorem commitFinish_plane (s : State) : (commitFinish s).plane = s.plane := rfl
@[simp] theorem commitFinish_lastdq (s : State) : (commitFinish s).lastdq = s.lastdq := rfl
@[simp] theorem commitFinish_lastblk (s : State) : (commitFinish s).lastblk = s.lastblk := rfl
@[simp] theorem commitFinish_outm (s : State) : (commitFinish s).outm = s.outm.write 0 (raster s) := rfl
@[simp] theorem commitFinish_draws (s : State) : (commitFinish s).draws = s.draws + 1 := rfl
@[simp] theorem commitFinish_agenda (s : State) : (commitFinish s).agenda = s.agenda := rfl
@[simp] theorem commitFinish_resp (s : State) : (commitFinish s).resp = s.resp := rfl

/-! ### `resetEngine` (spec/10_state.md R67) -/

@[simp] theorem resetEngine_params (s : State) : (resetEngine s).params = s.params := rfl
@[simp] theorem resetEngine_csi (s : State) : (resetEngine s).csi = State.reset.csi := rfl
@[simp] theorem resetEngine_ps (s : State) : (resetEngine s).ps = State.reset.ps := rfl
@[simp] theorem resetEngine_fifo (s : State) : (resetEngine s).fifo = State.reset.fifo := rfl
@[simp] theorem resetEngine_stg (s : State) : (resetEngine s).stg = State.reset.stg := rfl
@[simp] theorem resetEngine_held (s : State) : (resetEngine s).held = State.reset.held := rfl
@[simp] theorem resetEngine_doneIE (s : State) : (resetEngine s).doneIE = State.reset.doneIE := rfl
@[simp] theorem resetEngine_errIE (s : State) : (resetEngine s).errIE = State.reset.errIE := rfl
@[simp] theorem resetEngine_done (s : State) : (resetEngine s).done = State.reset.done := rfl
@[simp] theorem resetEngine_err (s : State) : (resetEngine s).err = State.reset.err := rfl
@[simp] theorem resetEngine_frameActive (s : State) : (resetEngine s).frameActive = State.reset.frameActive := rfl
@[simp] theorem resetEngine_qt0Valid (s : State) : (resetEngine s).qt0Valid = State.reset.qt0Valid := rfl
@[simp] theorem resetEngine_qt1Valid (s : State) : (resetEngine s).qt1Valid = State.reset.qt1Valid := rfl
@[simp] theorem resetEngine_cfgValid (s : State) : (resetEngine s).cfgValid = State.reset.cfgValid := rfl
@[simp] theorem resetEngine_comp0Valid (s : State) : (resetEngine s).comp0Valid = State.reset.comp0Valid := rfl
@[simp] theorem resetEngine_comp1Valid (s : State) : (resetEngine s).comp1Valid = State.reset.comp1Valid := rfl
@[simp] theorem resetEngine_comp2Valid (s : State) : (resetEngine s).comp2Valid = State.reset.comp2Valid := rfl
@[simp] theorem resetEngine_errInfo (s : State) : (resetEngine s).errInfo = State.reset.errInfo := rfl
@[simp] theorem resetEngine_frameW (s : State) : (resetEngine s).frameW = State.reset.frameW := rfl
@[simp] theorem resetEngine_frameH (s : State) : (resetEngine s).frameH = State.reset.frameH := rfl
@[simp] theorem resetEngine_ncomp (s : State) : (resetEngine s).ncomp = State.reset.ncomp := rfl
@[simp] theorem resetEngine_comp0 (s : State) : (resetEngine s).comp0 = State.reset.comp0 := rfl
@[simp] theorem resetEngine_comp1 (s : State) : (resetEngine s).comp1 = State.reset.comp1 := rfl
@[simp] theorem resetEngine_comp2 (s : State) : (resetEngine s).comp2 = State.reset.comp2 := rfl
@[simp] theorem resetEngine_mcux (s : State) : (resetEngine s).mcux = State.reset.mcux := rfl
@[simp] theorem resetEngine_mcuy (s : State) : (resetEngine s).mcuy = State.reset.mcuy := rfl
@[simp] theorem resetEngine_hmax (s : State) : (resetEngine s).hmax = State.reset.hmax := rfl
@[simp] theorem resetEngine_vmax (s : State) : (resetEngine s).vmax = State.reset.vmax := rfl
@[simp] theorem resetEngine_blktotal (s : State) : (resetEngine s).blktotal = State.reset.blktotal := rfl
@[simp] theorem resetEngine_blkcnt (s : State) : (resetEngine s).blkcnt = State.reset.blkcnt := rfl
@[simp] theorem resetEngine_qt (s : State) : (resetEngine s).qt = State.reset.qt := rfl
@[simp] theorem resetEngine_plane (s : State) : (resetEngine s).plane = State.reset.plane := rfl
@[simp] theorem resetEngine_lastdq (s : State) : (resetEngine s).lastdq = State.reset.lastdq := rfl
@[simp] theorem resetEngine_lastblk (s : State) : (resetEngine s).lastblk = State.reset.lastblk := rfl
@[simp] theorem resetEngine_outm (s : State) : (resetEngine s).outm = State.reset.outm := rfl
@[simp] theorem resetEngine_draws (s : State) : (resetEngine s).draws = s.draws := rfl
@[simp] theorem resetEngine_agenda (s : State) : (resetEngine s).agenda = s.agenda := rfl
@[simp] theorem resetEngine_resp (s : State) : (resetEngine s).resp = s.resp := rfl

/-! ### `State.setComp` and `State.setQtv` (spec/10_state.md R46, R43): every field but the component's, or the table's -/

@[simp] theorem setComp_params (s : State) (c : Nat) (k : CompCfg) : (s.setComp c k).params = s.params := by unfold State.setComp; split <;> rfl
@[simp] theorem setComp_csi (s : State) (c : Nat) (k : CompCfg) : (s.setComp c k).csi = s.csi := by unfold State.setComp; split <;> rfl
@[simp] theorem setComp_ps (s : State) (c : Nat) (k : CompCfg) : (s.setComp c k).ps = s.ps := by unfold State.setComp; split <;> rfl
@[simp] theorem setComp_fifo (s : State) (c : Nat) (k : CompCfg) : (s.setComp c k).fifo = s.fifo := by unfold State.setComp; split <;> rfl
@[simp] theorem setComp_stg (s : State) (c : Nat) (k : CompCfg) : (s.setComp c k).stg = s.stg := by unfold State.setComp; split <;> rfl
@[simp] theorem setComp_held (s : State) (c : Nat) (k : CompCfg) : (s.setComp c k).held = s.held := by unfold State.setComp; split <;> rfl
@[simp] theorem setComp_doneIE (s : State) (c : Nat) (k : CompCfg) : (s.setComp c k).doneIE = s.doneIE := by unfold State.setComp; split <;> rfl
@[simp] theorem setComp_errIE (s : State) (c : Nat) (k : CompCfg) : (s.setComp c k).errIE = s.errIE := by unfold State.setComp; split <;> rfl
@[simp] theorem setComp_done (s : State) (c : Nat) (k : CompCfg) : (s.setComp c k).done = s.done := by unfold State.setComp; split <;> rfl
@[simp] theorem setComp_err (s : State) (c : Nat) (k : CompCfg) : (s.setComp c k).err = s.err := by unfold State.setComp; split <;> rfl
@[simp] theorem setComp_frameActive (s : State) (c : Nat) (k : CompCfg) : (s.setComp c k).frameActive = s.frameActive := by unfold State.setComp; split <;> rfl
@[simp] theorem setComp_qt0Valid (s : State) (c : Nat) (k : CompCfg) : (s.setComp c k).qt0Valid = s.qt0Valid := by unfold State.setComp; split <;> rfl
@[simp] theorem setComp_qt1Valid (s : State) (c : Nat) (k : CompCfg) : (s.setComp c k).qt1Valid = s.qt1Valid := by unfold State.setComp; split <;> rfl
@[simp] theorem setComp_cfgValid (s : State) (c : Nat) (k : CompCfg) : (s.setComp c k).cfgValid = s.cfgValid := by unfold State.setComp; split <;> rfl
@[simp] theorem setComp_errInfo (s : State) (c : Nat) (k : CompCfg) : (s.setComp c k).errInfo = s.errInfo := by unfold State.setComp; split <;> rfl
@[simp] theorem setComp_frameW (s : State) (c : Nat) (k : CompCfg) : (s.setComp c k).frameW = s.frameW := by unfold State.setComp; split <;> rfl
@[simp] theorem setComp_frameH (s : State) (c : Nat) (k : CompCfg) : (s.setComp c k).frameH = s.frameH := by unfold State.setComp; split <;> rfl
@[simp] theorem setComp_ncomp (s : State) (c : Nat) (k : CompCfg) : (s.setComp c k).ncomp = s.ncomp := by unfold State.setComp; split <;> rfl
@[simp] theorem setComp_mcux (s : State) (c : Nat) (k : CompCfg) : (s.setComp c k).mcux = s.mcux := by unfold State.setComp; split <;> rfl
@[simp] theorem setComp_mcuy (s : State) (c : Nat) (k : CompCfg) : (s.setComp c k).mcuy = s.mcuy := by unfold State.setComp; split <;> rfl
@[simp] theorem setComp_hmax (s : State) (c : Nat) (k : CompCfg) : (s.setComp c k).hmax = s.hmax := by unfold State.setComp; split <;> rfl
@[simp] theorem setComp_vmax (s : State) (c : Nat) (k : CompCfg) : (s.setComp c k).vmax = s.vmax := by unfold State.setComp; split <;> rfl
@[simp] theorem setComp_blktotal (s : State) (c : Nat) (k : CompCfg) : (s.setComp c k).blktotal = s.blktotal := by unfold State.setComp; split <;> rfl
@[simp] theorem setComp_blkcnt (s : State) (c : Nat) (k : CompCfg) : (s.setComp c k).blkcnt = s.blkcnt := by unfold State.setComp; split <;> rfl
@[simp] theorem setComp_qt (s : State) (c : Nat) (k : CompCfg) : (s.setComp c k).qt = s.qt := by unfold State.setComp; split <;> rfl
@[simp] theorem setComp_plane (s : State) (c : Nat) (k : CompCfg) : (s.setComp c k).plane = s.plane := by unfold State.setComp; split <;> rfl
@[simp] theorem setComp_lastdq (s : State) (c : Nat) (k : CompCfg) : (s.setComp c k).lastdq = s.lastdq := by unfold State.setComp; split <;> rfl
@[simp] theorem setComp_lastblk (s : State) (c : Nat) (k : CompCfg) : (s.setComp c k).lastblk = s.lastblk := by unfold State.setComp; split <;> rfl
@[simp] theorem setComp_outm (s : State) (c : Nat) (k : CompCfg) : (s.setComp c k).outm = s.outm := by unfold State.setComp; split <;> rfl
@[simp] theorem setComp_draws (s : State) (c : Nat) (k : CompCfg) : (s.setComp c k).draws = s.draws := by unfold State.setComp; split <;> rfl
@[simp] theorem setComp_agenda (s : State) (c : Nat) (k : CompCfg) : (s.setComp c k).agenda = s.agenda := by unfold State.setComp; split <;> rfl
@[simp] theorem setComp_resp (s : State) (c : Nat) (k : CompCfg) : (s.setComp c k).resp = s.resp := by unfold State.setComp; split <;> rfl
@[simp] theorem setQtv_params (s : State) (t : Nat) : (s.setQtv t).params = s.params := by unfold State.setQtv; split <;> rfl
@[simp] theorem setQtv_csi (s : State) (t : Nat) : (s.setQtv t).csi = s.csi := by unfold State.setQtv; split <;> rfl
@[simp] theorem setQtv_ps (s : State) (t : Nat) : (s.setQtv t).ps = s.ps := by unfold State.setQtv; split <;> rfl
@[simp] theorem setQtv_fifo (s : State) (t : Nat) : (s.setQtv t).fifo = s.fifo := by unfold State.setQtv; split <;> rfl
@[simp] theorem setQtv_stg (s : State) (t : Nat) : (s.setQtv t).stg = s.stg := by unfold State.setQtv; split <;> rfl
@[simp] theorem setQtv_held (s : State) (t : Nat) : (s.setQtv t).held = s.held := by unfold State.setQtv; split <;> rfl
@[simp] theorem setQtv_doneIE (s : State) (t : Nat) : (s.setQtv t).doneIE = s.doneIE := by unfold State.setQtv; split <;> rfl
@[simp] theorem setQtv_errIE (s : State) (t : Nat) : (s.setQtv t).errIE = s.errIE := by unfold State.setQtv; split <;> rfl
@[simp] theorem setQtv_done (s : State) (t : Nat) : (s.setQtv t).done = s.done := by unfold State.setQtv; split <;> rfl
@[simp] theorem setQtv_err (s : State) (t : Nat) : (s.setQtv t).err = s.err := by unfold State.setQtv; split <;> rfl
@[simp] theorem setQtv_frameActive (s : State) (t : Nat) : (s.setQtv t).frameActive = s.frameActive := by unfold State.setQtv; split <;> rfl
@[simp] theorem setQtv_cfgValid (s : State) (t : Nat) : (s.setQtv t).cfgValid = s.cfgValid := by unfold State.setQtv; split <;> rfl
@[simp] theorem setQtv_comp0Valid (s : State) (t : Nat) : (s.setQtv t).comp0Valid = s.comp0Valid := by unfold State.setQtv; split <;> rfl
@[simp] theorem setQtv_comp1Valid (s : State) (t : Nat) : (s.setQtv t).comp1Valid = s.comp1Valid := by unfold State.setQtv; split <;> rfl
@[simp] theorem setQtv_comp2Valid (s : State) (t : Nat) : (s.setQtv t).comp2Valid = s.comp2Valid := by unfold State.setQtv; split <;> rfl
@[simp] theorem setQtv_errInfo (s : State) (t : Nat) : (s.setQtv t).errInfo = s.errInfo := by unfold State.setQtv; split <;> rfl
@[simp] theorem setQtv_frameW (s : State) (t : Nat) : (s.setQtv t).frameW = s.frameW := by unfold State.setQtv; split <;> rfl
@[simp] theorem setQtv_frameH (s : State) (t : Nat) : (s.setQtv t).frameH = s.frameH := by unfold State.setQtv; split <;> rfl
@[simp] theorem setQtv_ncomp (s : State) (t : Nat) : (s.setQtv t).ncomp = s.ncomp := by unfold State.setQtv; split <;> rfl
@[simp] theorem setQtv_comp0 (s : State) (t : Nat) : (s.setQtv t).comp0 = s.comp0 := by unfold State.setQtv; split <;> rfl
@[simp] theorem setQtv_comp1 (s : State) (t : Nat) : (s.setQtv t).comp1 = s.comp1 := by unfold State.setQtv; split <;> rfl
@[simp] theorem setQtv_comp2 (s : State) (t : Nat) : (s.setQtv t).comp2 = s.comp2 := by unfold State.setQtv; split <;> rfl
@[simp] theorem setQtv_mcux (s : State) (t : Nat) : (s.setQtv t).mcux = s.mcux := by unfold State.setQtv; split <;> rfl
@[simp] theorem setQtv_mcuy (s : State) (t : Nat) : (s.setQtv t).mcuy = s.mcuy := by unfold State.setQtv; split <;> rfl
@[simp] theorem setQtv_hmax (s : State) (t : Nat) : (s.setQtv t).hmax = s.hmax := by unfold State.setQtv; split <;> rfl
@[simp] theorem setQtv_vmax (s : State) (t : Nat) : (s.setQtv t).vmax = s.vmax := by unfold State.setQtv; split <;> rfl
@[simp] theorem setQtv_blktotal (s : State) (t : Nat) : (s.setQtv t).blktotal = s.blktotal := by unfold State.setQtv; split <;> rfl
@[simp] theorem setQtv_blkcnt (s : State) (t : Nat) : (s.setQtv t).blkcnt = s.blkcnt := by unfold State.setQtv; split <;> rfl
@[simp] theorem setQtv_qt (s : State) (t : Nat) : (s.setQtv t).qt = s.qt := by unfold State.setQtv; split <;> rfl
@[simp] theorem setQtv_plane (s : State) (t : Nat) : (s.setQtv t).plane = s.plane := by unfold State.setQtv; split <;> rfl
@[simp] theorem setQtv_lastdq (s : State) (t : Nat) : (s.setQtv t).lastdq = s.lastdq := by unfold State.setQtv; split <;> rfl
@[simp] theorem setQtv_lastblk (s : State) (t : Nat) : (s.setQtv t).lastblk = s.lastblk := by unfold State.setQtv; split <;> rfl
@[simp] theorem setQtv_outm (s : State) (t : Nat) : (s.setQtv t).outm = s.outm := by unfold State.setQtv; split <;> rfl
@[simp] theorem setQtv_draws (s : State) (t : Nat) : (s.setQtv t).draws = s.draws := by unfold State.setQtv; split <;> rfl
@[simp] theorem setQtv_agenda (s : State) (t : Nat) : (s.setQtv t).agenda = s.agenda := by unfold State.setQtv; split <;> rfl
@[simp] theorem setQtv_resp (s : State) (t : Nat) : (s.setQtv t).resp = s.resp := by unfold State.setQtv; split <;> rfl

/-! ### `releaseHeld` (spec/20_memory.md R93): every field but the FIFO, the held writes and the bus's answer -/

@[simp] theorem releaseHeld_params (s : State) : (releaseHeld s).params = s.params := by unfold releaseHeld; split <;> [rfl; (split <;> [rfl; (split <;> rfl)])]
@[simp] theorem releaseHeld_csi (s : State) : (releaseHeld s).csi = s.csi := by unfold releaseHeld; split <;> [rfl; (split <;> [rfl; (split <;> rfl)])]
@[simp] theorem releaseHeld_ps (s : State) : (releaseHeld s).ps = s.ps := by unfold releaseHeld; split <;> [rfl; (split <;> [rfl; (split <;> rfl)])]
@[simp] theorem releaseHeld_stg (s : State) : (releaseHeld s).stg = s.stg := by unfold releaseHeld; split <;> [rfl; (split <;> [rfl; (split <;> rfl)])]
@[simp] theorem releaseHeld_doneIE (s : State) : (releaseHeld s).doneIE = s.doneIE := by unfold releaseHeld; split <;> [rfl; (split <;> [rfl; (split <;> rfl)])]
@[simp] theorem releaseHeld_errIE (s : State) : (releaseHeld s).errIE = s.errIE := by unfold releaseHeld; split <;> [rfl; (split <;> [rfl; (split <;> rfl)])]
@[simp] theorem releaseHeld_done (s : State) : (releaseHeld s).done = s.done := by unfold releaseHeld; split <;> [rfl; (split <;> [rfl; (split <;> rfl)])]
@[simp] theorem releaseHeld_err (s : State) : (releaseHeld s).err = s.err := by unfold releaseHeld; split <;> [rfl; (split <;> [rfl; (split <;> rfl)])]
@[simp] theorem releaseHeld_frameActive (s : State) : (releaseHeld s).frameActive = s.frameActive := by unfold releaseHeld; split <;> [rfl; (split <;> [rfl; (split <;> rfl)])]
@[simp] theorem releaseHeld_qt0Valid (s : State) : (releaseHeld s).qt0Valid = s.qt0Valid := by unfold releaseHeld; split <;> [rfl; (split <;> [rfl; (split <;> rfl)])]
@[simp] theorem releaseHeld_qt1Valid (s : State) : (releaseHeld s).qt1Valid = s.qt1Valid := by unfold releaseHeld; split <;> [rfl; (split <;> [rfl; (split <;> rfl)])]
@[simp] theorem releaseHeld_cfgValid (s : State) : (releaseHeld s).cfgValid = s.cfgValid := by unfold releaseHeld; split <;> [rfl; (split <;> [rfl; (split <;> rfl)])]
@[simp] theorem releaseHeld_comp0Valid (s : State) : (releaseHeld s).comp0Valid = s.comp0Valid := by unfold releaseHeld; split <;> [rfl; (split <;> [rfl; (split <;> rfl)])]
@[simp] theorem releaseHeld_comp1Valid (s : State) : (releaseHeld s).comp1Valid = s.comp1Valid := by unfold releaseHeld; split <;> [rfl; (split <;> [rfl; (split <;> rfl)])]
@[simp] theorem releaseHeld_comp2Valid (s : State) : (releaseHeld s).comp2Valid = s.comp2Valid := by unfold releaseHeld; split <;> [rfl; (split <;> [rfl; (split <;> rfl)])]
@[simp] theorem releaseHeld_errInfo (s : State) : (releaseHeld s).errInfo = s.errInfo := by unfold releaseHeld; split <;> [rfl; (split <;> [rfl; (split <;> rfl)])]
@[simp] theorem releaseHeld_frameW (s : State) : (releaseHeld s).frameW = s.frameW := by unfold releaseHeld; split <;> [rfl; (split <;> [rfl; (split <;> rfl)])]
@[simp] theorem releaseHeld_frameH (s : State) : (releaseHeld s).frameH = s.frameH := by unfold releaseHeld; split <;> [rfl; (split <;> [rfl; (split <;> rfl)])]
@[simp] theorem releaseHeld_ncomp (s : State) : (releaseHeld s).ncomp = s.ncomp := by unfold releaseHeld; split <;> [rfl; (split <;> [rfl; (split <;> rfl)])]
@[simp] theorem releaseHeld_comp0 (s : State) : (releaseHeld s).comp0 = s.comp0 := by unfold releaseHeld; split <;> [rfl; (split <;> [rfl; (split <;> rfl)])]
@[simp] theorem releaseHeld_comp1 (s : State) : (releaseHeld s).comp1 = s.comp1 := by unfold releaseHeld; split <;> [rfl; (split <;> [rfl; (split <;> rfl)])]
@[simp] theorem releaseHeld_comp2 (s : State) : (releaseHeld s).comp2 = s.comp2 := by unfold releaseHeld; split <;> [rfl; (split <;> [rfl; (split <;> rfl)])]
@[simp] theorem releaseHeld_mcux (s : State) : (releaseHeld s).mcux = s.mcux := by unfold releaseHeld; split <;> [rfl; (split <;> [rfl; (split <;> rfl)])]
@[simp] theorem releaseHeld_mcuy (s : State) : (releaseHeld s).mcuy = s.mcuy := by unfold releaseHeld; split <;> [rfl; (split <;> [rfl; (split <;> rfl)])]
@[simp] theorem releaseHeld_hmax (s : State) : (releaseHeld s).hmax = s.hmax := by unfold releaseHeld; split <;> [rfl; (split <;> [rfl; (split <;> rfl)])]
@[simp] theorem releaseHeld_vmax (s : State) : (releaseHeld s).vmax = s.vmax := by unfold releaseHeld; split <;> [rfl; (split <;> [rfl; (split <;> rfl)])]
@[simp] theorem releaseHeld_blktotal (s : State) : (releaseHeld s).blktotal = s.blktotal := by unfold releaseHeld; split <;> [rfl; (split <;> [rfl; (split <;> rfl)])]
@[simp] theorem releaseHeld_blkcnt (s : State) : (releaseHeld s).blkcnt = s.blkcnt := by unfold releaseHeld; split <;> [rfl; (split <;> [rfl; (split <;> rfl)])]
@[simp] theorem releaseHeld_qt (s : State) : (releaseHeld s).qt = s.qt := by unfold releaseHeld; split <;> [rfl; (split <;> [rfl; (split <;> rfl)])]
@[simp] theorem releaseHeld_plane (s : State) : (releaseHeld s).plane = s.plane := by unfold releaseHeld; split <;> [rfl; (split <;> [rfl; (split <;> rfl)])]
@[simp] theorem releaseHeld_lastdq (s : State) : (releaseHeld s).lastdq = s.lastdq := by unfold releaseHeld; split <;> [rfl; (split <;> [rfl; (split <;> rfl)])]
@[simp] theorem releaseHeld_lastblk (s : State) : (releaseHeld s).lastblk = s.lastblk := by unfold releaseHeld; split <;> [rfl; (split <;> [rfl; (split <;> rfl)])]
@[simp] theorem releaseHeld_outm (s : State) : (releaseHeld s).outm = s.outm := by unfold releaseHeld; split <;> [rfl; (split <;> [rfl; (split <;> rfl)])]
@[simp] theorem releaseHeld_draws (s : State) : (releaseHeld s).draws = s.draws := by unfold releaseHeld; split <;> [rfl; (split <;> [rfl; (split <;> rfl)])]
@[simp] theorem releaseHeld_agenda (s : State) : (releaseHeld s).agenda = s.agenda := by unfold releaseHeld; split <;> [rfl; (split <;> [rfl; (split <;> rfl)])]

/-! ### Numbered registers -/

@[simp] theorem setComp_comp (s : State) (c d : Nat) (k : CompCfg) :
    (s.setComp c k).comp d = if d = c ∧ c < 3 then k else s.comp d := by
  match c, d with
  | 0, 0 | 0, 1 | 0, 2 | 0, (_ + 3) | 1, 0 | 1, 1 | 1, 2 | 1, (_ + 3) | 2, 0 | 2, 1 | 2, 2 | 2, (_ + 3) => simp [State.setComp, State.comp]
  | (c + 3), d => simp [State.setComp, State.comp]

@[simp] theorem setComp_compv (s : State) (c d : Nat) (k : CompCfg) :
    (s.setComp c k).compv d = if d = c ∧ c < 3 then true else s.compv d := by
  match c, d with
  | 0, 0 | 0, 1 | 0, 2 | 0, (_ + 3) | 1, 0 | 1, 1 | 1, 2 | 1, (_ + 3) | 2, 0 | 2, 1 | 2, 2 | 2, (_ + 3) => simp [State.setComp, State.compv]
  | (c + 3), d => simp [State.setComp, State.compv]

@[simp] theorem setQtv_qtv (s : State) (t u : Nat) :
    (s.setQtv t).qtv u = if u = t ∧ t < 2 then true else s.qtv u := by
  match t, u with
  | 0, 0 | 0, 1 | 0, (_ + 2) | 1, 0 | 1, 1 | 1, (_ + 2) => simp [State.setQtv, State.qtv]
  | (t + 2), u => simp [State.setQtv, State.qtv]

end Sys2Proof.Machine
end

