-- ==== Sys2Proof/Laws/Ops.lean ====
section
/-! SUPPORT. What the shared operations and the meanings can do, said once each: a command is turned away with one
error, or commits; what an engine step, the release of a held write and a host access come to. -/

namespace Sys2Proof.Machine

open Host (Outcome)

/-! ### Commands -/

/-- A command's `COMMIT`. -/
def commitOf (i : Instr) (s : State) : State :=
  match i with
  | .nop => s
  | .setFrame nc h w => commitSetFrame nc h w s
  | .setComp ci hs vs tq => s.setComp ci.toNat ⟨hs, vs, tq⟩
  | .loadQt _ tq e => commitLoadQt tq e s
  | .start => commitStart s
  | .block c => commitBlock c s
  | .finish => commitFinish s

/-- The command passes all its checks in `s`. -/
def passes (i : Instr) (s : State) : Prop :=
  match i with
  | .nop => True
  | .setFrame nc h w => setFrameCheck nc s = none ∧ dimensionCheck s.params w h = none
  | .setComp ci hs vs tq => setCompCheck ci hs vs tq s = none
  | .loadQt pq tq e => loadQtCheck pq tq s = none ∧ firstBad (entryCheck pq) 1 e.toList = none
  | .start => startCheck s = none
  | .block c => blockCheck s = none ∧ firstBad coefCheck 1 c.toList = none
  | .finish => finishCheck s = none

theorem firstBad_cause {check : Word → Option Cause} {P : Cause → Prop} (h : ∀ w c, check w = some c → P c) :
    ∀ (j : Nat) (ws : List Word) (r : Nat × Cause), firstBad check j ws = some r → P r.2
  | _, [], _, hr => by simp [firstBad] at hr
  | j, w :: ws, r, hr => by
    rw [firstBad] at hr
    split at hr
    · next c hc => cases hr; exact h w c hc
    · exact firstBad_cause h (j + 1) ws r hr

theorem firstBad_none_iff {check : Word → Option Cause} (j : Nat) (ws : List Word) :
    firstBad check j ws = none ↔ ∀ w ∈ ws, check w = none := by
  induction ws generalizing j with
  | nil => simp [firstBad]
  | cons w ws ih =>
    rw [firstBad]
    cases h : check w with
    | none => simp [ih, h]
    | some c => simp [h]

theorem entryCheck_cause {pq : BitVec 4} {w : Word} {c : Cause} (h : entryCheck pq w = some c) :
    c = .outOfRangeField := by
  unfold entryCheck at h; split at h
  · exact (Option.some.inj h).symm
  · split at h
    · exact (Option.some.inj h).symm
    · simp at h

theorem coefCheck_cause {w : Word} {c : Cause} (h : coefCheck w = some c) : c = .outOfRangeField := by
  unfold coefCheck at h; split at h
  · exact (Option.some.inj h).symm
  · simp at h

/-- A header check never names the cause NONE. -/
theorem headerCheck_cause {op : Opcode} {hdr : Word} {s : State} {c : Cause} (h : headerCheck op hdr s = some c) :
    c ≠ .none := by
  rintro rfl
  cases op <;>
    simp only [headerCheck, setFrameCheck, setCompCheck, loadQtCheck, startCheck, blockCheck, finishCheck,
      reduceCtorEq] at h <;>
    (repeat' split at h) <;> simp at h

/-- A payload check never names the cause NONE. -/
theorem payloadCheck_cause {op : Opcode} {hdr w : Word} {p : Params} {c : Cause}
    (h : payloadCheck op hdr w p = some c) : c ≠ .none := by
  cases op <;> simp only [payloadCheck, reduceCtorEq] at h
  · unfold dimensionCheck at h; split at h
    · cases h; decide
    · simp at h
  · rw [entryCheck_cause h]; decide
  · rw [coefCheck_cause h]; decide

/-- A command is turned away with one error of its own opcode, or passes its checks and commits. -/
theorem exec_cases (i : Instr) (s : State) :
    (∃ c j, c ≠ .none ∧ exec i s = .next (raiseError c i.opcode.code j s)) ∨
    (passes i s ∧ exec i s = .next (commitOf i s)) := by
  cases i with
  | nop => exact .inr ⟨trivial, rfl⟩
  | setFrame nc h w =>
    simp only [exec, execSetFrame, passes, commitOf]
    cases h1 : setFrameCheck nc s with
    | some c => exact .inl ⟨c, 0, headerCheck_cause (op := .setFrame) (hdr := encodeHeader (.setFrame nc h w)) (s := s) (by simpa [headerCheck] using h1), rfl⟩
    | none =>
      cases h2 : dimensionCheck s.params w h with
      | some c =>
        refine .inl ⟨c, 1, ?_, rfl⟩
        unfold dimensionCheck at h2; split at h2
        · cases h2; decide
        · simp at h2
      | none => exact .inr ⟨⟨rfl, rfl⟩, rfl⟩
  | setComp ci hs vs tq =>
    simp only [exec, execSetComp, passes, commitOf]
    cases h1 : setCompCheck ci hs vs tq s with
    | some c => exact .inl ⟨c, 0, headerCheck_cause (op := .setComp) (hdr := encodeHeader (.setComp ci hs vs tq)) (s := s) (by simpa [headerCheck] using h1), rfl⟩
    | none => exact .inr ⟨rfl, rfl⟩
  | loadQt pq tq e =>
    simp only [exec, execLoadQt, passes, commitOf]
    cases h1 : loadQtCheck pq tq s with
    | some c => exact .inl ⟨c, 0, headerCheck_cause (op := .loadQt) (hdr := encodeHeader (.loadQt pq tq e)) (s := s) (by simpa [headerCheck] using h1), rfl⟩
    | none =>
      cases h2 : firstBad (entryCheck pq) 1 e.toList with
      | some jc =>
        have h3 : jc.2 = .outOfRangeField :=
          firstBad_cause (P := (· = .outOfRangeField)) (fun _ _ => entryCheck_cause) _ _ _ h2
        exact .inl ⟨jc.2, jc.1, by rw [h3]; decide, rfl⟩
      | none => exact .inr ⟨⟨rfl, rfl⟩, rfl⟩
  | start =>
    simp only [exec, execStart, passes, commitOf]
    cases h1 : startCheck s with
    | some c => exact .inl ⟨c, 0, headerCheck_cause (op := .start) (hdr := 0) (s := s) h1, rfl⟩
    | none => exact .inr ⟨rfl, rfl⟩
  | block c =>
    simp only [exec, execBlock, passes, commitOf]
    cases h1 : blockCheck s with
    | some e => exact .inl ⟨e, 0, headerCheck_cause (op := .block) (hdr := 0) (s := s) h1, rfl⟩
    | none =>
      cases h2 : firstBad coefCheck 1 c.toList with
      | some jc =>
        have h3 : jc.2 = .outOfRangeField :=
          firstBad_cause (P := (· = .outOfRangeField)) (fun _ _ => coefCheck_cause) _ _ _ h2
        exact .inl ⟨jc.2, jc.1, by rw [h3]; decide, rfl⟩
      | none => exact .inr ⟨⟨rfl, rfl⟩, rfl⟩
  | finish =>
    simp only [exec, execFinish, passes, commitOf]
    cases h1 : finishCheck s with
    | some c => exact .inl ⟨c, 0, headerCheck_cause (op := .finish) (hdr := 0) (s := s) h1, rfl⟩
    | none => exact .inr ⟨rfl, rfl⟩

/-- A command that passes its checks commits. -/
theorem exec_of_passes {i : Instr} {s : State} (h : passes i s) : exec i s = .next (commitOf i s) := by
  cases i <;> simp only [passes] at h <;>
    simp only [exec, execNop, execSetFrame, execSetComp, execLoadQt, execStart, execBlock, execFinish, commitOf, h]

/-- No commit changes `ERR`. -/
@[simp] theorem commitOf_err (i : Instr) (s : State) : (commitOf i s).err = s.err := by
  cases i <;> simp only [commitOf, commitSetFrame, commitStart, commitLoadQt, commitBlock, storeBlock, commitFinish,
    State.setComp, State.setQtv]
  all_goals split <;> rfl

/-- The checks of a command are those the parser made of its words. -/
theorem passes_iff (i : Instr) (s : State) :
    passes i s ↔ headerCheck i.opcode (encodeHeader i) s = none ∧
      ∀ w ∈ encodePayload i, payloadCheck i.opcode (encodeHeader i) w s.params = none := by
  cases i <;> simp [passes, headerCheck, encodePayload, payloadCheck, Instr.opcode, firstBad_none_iff]

/-! ### The engine's step -/

/-- What one engine step comes to. -/
theorem engineMove_cases (s : State) :
    (s.ps = .halted ∧ engineMove s = .stop .halted) ∨
    (s.ps = .idle ∧ s.fifo = [] ∧ engineMove s = .stop .waiting) ∨
    (s.ps.pending = true ∧ s.fifo = [] ∧ engineMove s = .stop .stuck) ∨
    (∃ w rest, s.ps = .idle ∧ s.fifo = w :: rest ∧ engineMove s = headerMove w (popWord rest s)) ∨
    (∃ op hdr n w rest, s.ps = .payload op hdr n ∧ s.fifo = w :: rest ∧
      engineMove s = payloadMove op hdr n w (popWord rest s)) := by
  unfold engineMove
  rcases hps : s.ps with _ | ⟨op, hdr, n⟩ | _ <;> rcases hf : s.fifo with _ | ⟨w, rest⟩ <;>
    simp [ParserState.pending]

/-- What a header word comes to. -/
theorem headerMove_cases (w : Word) (s : State) :
    (∃ c op, c ≠ .none ∧ headerMove w s = .next (raiseError c op 0 s)) ∨
    (∃ op, decodeHeader w = .ok op ∧ op.len = 1 ∧ headerMove w s = .run (assemble op w []) s) ∨
    (∃ op, decodeHeader w = .ok op ∧ op.len ≠ 1 ∧ headerCheck op w s = none ∧
      headerMove w s = .next { s with ps := .payload op w 0 }) := by
  unfold headerMove
  rcases hd : decodeHeader w with op | b | op
  · by_cases hl : op.len = 1
    · exact .inr (.inl ⟨op, rfl, hl, by simp [hl]⟩)
    · rcases hc : headerCheck op w s with _ | c
      · exact .inr (.inr ⟨op, rfl, hl, hc, by simp [hl, hc]⟩)
      · exact .inl ⟨c, op.code, headerCheck_cause hc, by simp [hl, hc]⟩
  · exact .inl ⟨.illegalOpcode, b, by decide, rfl⟩
  · exact .inl ⟨.reservedBits, op.code, by decide, rfl⟩

/-- What a payload word comes to. -/
theorem payloadMove_cases (op : Opcode) (hdr : Word) (n : Nat) (w : Word) (s : State) :
    (∃ c, c ≠ .none ∧ payloadMove op hdr n w s = .next (raiseError c op.code (n + 1) s)) ∨
    (payloadCheck op hdr w s.params = none ∧ n + 1 = op.len - 1 ∧
      payloadMove op hdr n w s =
        .run (assemble op hdr (stagedWords (n + 1) (stage (n + 1) w s))) (commandComplete (stage (n + 1) w s))) ∨
    (payloadCheck op hdr w s.params = none ∧ n + 1 ≠ op.len - 1 ∧
      payloadMove op hdr n w s = .next { stage (n + 1) w s with ps := .payload op hdr (n + 1) }) := by
  unfold payloadMove
  rcases hc : payloadCheck op hdr w s.params with _ | c
  · by_cases hl : n + 1 = op.len - 1
    · exact .inr (.inl ⟨rfl, hl, by simp [hl]⟩)
    · exact .inr (.inr ⟨rfl, hl, by simp [hl]⟩)
  · exact .inl ⟨c, payloadCheck_cause hc, rfl⟩

/-- What the release of a held write comes to. -/
theorem releaseHeld_cases (s : State) :
    (s.held = [] ∧ releaseHeld s = s) ∨
    (s.held ≠ [] ∧ s.err = true ∧ releaseHeld s = { s with held := [], resp := some .writeDone }) ∨
    (∃ h hs, s.held = h :: hs ∧ s.err = false ∧ s.fifo.length < s.params.fifoDepth ∧
      releaseHeld s = { s with fifo := s.fifo ++ [h.data], held := hs, resp := some .writeDone }) ∨
    (s.held ≠ [] ∧ s.err = false ∧ s.params.fifoDepth ≤ s.fifo.length ∧ releaseHeld s = s) := by
  unfold releaseHeld
  rcases hh : s.held with _ | ⟨h, hs⟩
  · exact .inl ⟨rfl, rfl⟩
  · by_cases he : s.err = true
    · exact .inr (.inl ⟨by simp, he, by simp [he]⟩)
    · have he' : s.err = false := by simpa using he
      by_cases hl : s.fifo.length < s.params.fifoDepth
      · exact .inr (.inr (.inl ⟨h, hs, rfl, he', hl, by simp [he', hl]⟩))
      · exact .inr (.inr (.inr ⟨by simp, he', by omega, by simp [he', hl]⟩))

end Sys2Proof.Machine
end

