-- ==== Sys2Proof/Laws/PerInstr.lean ====
section
/-! SUPPORT. Facts of every command as syntax, one lemma per constructor. -/

namespace Sys2Proof.Laws.HeaderByte

/-- The header's bits [31:24] are the command's opcode (spec/30_encoding.md R111). -/
def Statement (i : Instr) : Prop := opByte (encodeHeader i) = i.opcode.code

theorem nop : Statement .nop := by unfold Statement; decide

theorem setFrame (nc : BitVec 4) (height width : BitVec 16) : Statement (.setFrame nc height width) := by
  simp only [Statement, opByte, encodeHeader, bits, placeField, Instr.opcode, Opcode.code]
  refine BitVec.eq_of_getLsbD_eq fun i hi => ?_
  interval_cases i <;> simp

theorem setComp (ci : BitVec 2) (hs vs tq : BitVec 4) : Statement (.setComp ci hs vs tq) := by
  simp only [Statement, opByte, encodeHeader, bits, placeField, Instr.opcode, Opcode.code]
  refine BitVec.eq_of_getLsbD_eq fun i hi => ?_
  interval_cases i <;> simp

theorem loadQt (pq tq : BitVec 4) (entries : Vector Word 64) : Statement (.loadQt pq tq entries) := by
  simp only [Statement, opByte, encodeHeader, bits, placeField, Instr.opcode, Opcode.code]
  refine BitVec.eq_of_getLsbD_eq fun i hi => ?_
  interval_cases i <;> simp

theorem start : Statement .start := by unfold Statement; decide

theorem block (coefs : Vector Word 64) : Statement (.block coefs) := by
  simp only [Statement, opByte, encodeHeader, Instr.opcode, Opcode.code]
  decide

theorem finish : Statement .finish := by unfold Statement; decide

end Sys2Proof.Laws.HeaderByte
end

