-- ==== Sys2Proof/Laws/Commands.lean ====
section
/-! SUPPORT. What the parts of the commands do, said once each: the header decoder on encodings, the turned-away
commands, the lengths of blocks and rasters, the grid, the block order. -/

namespace Sys2Proof.Machine

/-! ### Decoding what was encoded -/

/-- An encoded header is decoded to its command's opcode. -/
theorem decodeHeader_encodeHeader (i : Instr) : decodeHeader (encodeHeader i) = .ok i.opcode := by
  have h1 : opByte (encodeHeader i) = i.opcode.code := by
    cases i
    · exact Laws.HeaderByte.nop
    · exact Laws.HeaderByte.setFrame ..
    · exact Laws.HeaderByte.setComp ..
    · exact Laws.HeaderByte.loadQt ..
    · exact Laws.HeaderByte.start
    · exact Laws.HeaderByte.block ..
    · exact Laws.HeaderByte.finish
  have h2 : encodeHeader i &&& i.opcode.resMask = 0 := by
    cases i with
    | setFrame nc h w =>
      simp only [encodeHeader, Instr.opcode, Opcode.resMask, Opcode.mask, placeField]
      refine BitVec.eq_of_getLsbD_eq fun i hi => ?_
      interval_cases i <;> simp
    | setComp ci hs vs tq =>
      simp only [encodeHeader, Instr.opcode, Opcode.resMask, Opcode.mask, placeField]
      refine BitVec.eq_of_getLsbD_eq fun i hi => ?_
      interval_cases i <;> simp
    | loadQt pq tq e =>
      simp only [encodeHeader, Instr.opcode, Opcode.resMask, Opcode.mask, placeField]
      refine BitVec.eq_of_getLsbD_eq fun i hi => ?_
      interval_cases i <;> simp
    | nop => rfl
    | start => rfl
    | block c =>
      show (0x05000000 : Word) &&& Opcode.block.resMask = 0
      rfl
    | finish => rfl
  have h3 : opcodeOfByte i.opcode.code = some i.opcode := by cases i <;> rfl
  rw [decodeHeader, h1, h3]
  simp [h2]

/-- A command is made again from its header and payload. -/
theorem assemble_encode (i : Instr) : assemble i.opcode (encodeHeader i) (encodePayload i) = i := by
  cases i <;> simp [assemble, Instr.opcode, encodePayload]

/-! ### Commands that are turned away -/

/-- A command whose header check fails raises that error at word 0. -/
theorem exec_of_headerCheck {i : Instr} {s : State} {c : Cause}
    (h : headerCheck i.opcode (encodeHeader i) s = some c) : exec i s = .next (raiseError c i.opcode.code 0 s) := by
  cases i <;> simp only [headerCheck, Instr.opcode, reduceCtorEq, ncField_setFrame, ciField_setComp, hsField_setComp,
    vsField_setComp, tqField_setComp, pqField_loadQt, tqField_loadQt] at h <;>
    simp only [exec, execSetFrame, execSetComp, execLoadQt, execStart, execBlock, execFinish, h, Instr.opcode]

/-- The place of the first failing payload word. -/
theorem firstBad_bounds {check : Word → Option Cause} :
    ∀ {ws : List Word} {j : Nat} {r : Nat × Cause}, firstBad check j ws = some r → j ≤ r.1 ∧ r.1 < j + ws.length
  | [], _, _, h => by simp [firstBad] at h
  | w :: ws, j, r, h => by
    rw [firstBad] at h
    split at h
    · cases h; simp
    · have := firstBad_bounds h
      simp only [List.length_cons]
      omega

/-! ### Lengths -/

theorem fromZigzag_length {α : Type} (d : α) (l : List α) : (fromZigzag d l).length = 64 := by
  simp only [fromZigzag, List.length_map]
  rfl

theorem dequantize_length (s : State) (t : Nat) (coefs : List Word) : (dequantize s t coefs).length = 64 := by
  simp [dequantize, fromZigzag_length]

theorem blockSamples_length (d : List Int) : (blockSamples d).length = 64 := by simp [blockSamples, colPass]

theorem pixel_length (s : State) (x y : Nat) : (pixel s x y).length = 3 := by
  unfold pixel
  split <;> simp [ycc]

theorem raster_length (s : State) : (raster s).length = s.frameW.toNat * s.frameH.toNat * 3 := by
  simp [raster, List.length_flatMap, pixel_length]

/-! ### The grid (spec/41_frame.md R171, R172) -/

/-- `cdiv` is the least multiple that covers. -/
theorem cdiv_bounds {n f : Nat} (hf : 1 ≤ f) (hn : 1 ≤ n) : n ≤ cdiv n f * f ∧ cdiv n f * f < n + f := by
  unfold cdiv
  have e1 := Nat.div_add_mod (n + f - 1) f
  have e2 := Nat.mod_lt (n + f - 1) hf
  rw [Nat.mul_comm] at e1
  omega

theorem maxHs_cons (k : CompCfg) (ks : List CompCfg) : maxHs (k :: ks) = max k.hs.toNat (maxHs ks) := by
  have h : ∀ (l : List CompCfg) (m : Nat), l.foldl (fun m k => max m k.hs.toNat) m = max m (maxHs l) := by
    intro l
    unfold maxHs
    induction l with
    | nil => simp
    | cons a l ih => intro m; simp only [List.foldl_cons]; rw [ih, ih (max 0 _)]; omega
  rw [maxHs, List.foldl_cons, h]
  omega

theorem maxVs_cons (k : CompCfg) (ks : List CompCfg) : maxVs (k :: ks) = max k.vs.toNat (maxVs ks) := by
  have h : ∀ (l : List CompCfg) (m : Nat), l.foldl (fun m k => max m k.vs.toNat) m = max m (maxVs l) := by
    intro l
    unfold maxVs
    induction l with
    | nil => simp
    | cons a l ih => intro m; simp only [List.foldl_cons]; rw [ih, ih (max 0 _)]; omega
  rw [maxVs, List.foldl_cons, h]
  omega

theorem blocksPerMcu_cons (k : CompCfg) (ks : List CompCfg) :
    blocksPerMcu (k :: ks) = blocksOf k + blocksPerMcu ks := by
  simp [blocksPerMcu]

/-- The component of index `c` in use. -/
theorem activeComps_get {s : State} {c : Nat} (hn : s.ncomp.toNat ≤ 3) (h : c < s.ncomp.toNat) :
    s.activeComps[c]? = some (s.comp c) := by
  unfold State.activeComps
  rw [List.getElem?_take_of_lt h]
  have : c = 0 ∨ c = 1 ∨ c = 2 := by omega
  rcases this with rfl | rfl | rfl <;> rfl

/-! ### The block order (spec/41_frame.md R173, R177) -/

/-- `findComponent` finds a component of the list and a block of it. -/
theorem findComponent_spec : ∀ (comps : List CompCfg) (c j : Nat), j < blocksPerMcu comps →
    ∃ k d, (findComponent comps c j).1 = c + d ∧ comps[d]? = some k ∧
      componentOffset comps d + (findComponent comps c j).2 = j ∧ (findComponent comps c j).2 < blocksOf k
  | [], c, j, h => by simp [blocksPerMcu] at h
  | k :: ks, c, j, h => by
    rw [findComponent]
    split
    · next hj => exact ⟨k, 0, by simp, by simp, by simp [componentOffset, blocksPerMcu], hj⟩
    · next hj =>
      rw [blocksPerMcu_cons] at h
      obtain ⟨k', d, h1, h2, h3, h4⟩ := findComponent_spec ks (c + 1) (j - blocksOf k) (by omega)
      refine ⟨k', d + 1, by omega, by simpa using h2, ?_, h4⟩
      simp only [componentOffset, List.take_succ_cons, blocksPerMcu_cons] at *
      omega

/-- Block `i` of the component of index `d` is found there. -/
theorem findComponent_of : ∀ (comps : List CompCfg) (c d : Nat) (k : CompCfg) (i : Nat), comps[d]? = some k →
    i < blocksOf k → findComponent comps c (componentOffset comps d + i) = (c + d, i)
  | [], _, _, _, _, h, _ => by simp at h
  | k0 :: ks, c, 0, k, i, h, hi => by
    simp only [List.getElem?_cons_zero, Option.some.injEq] at h
    subst h
    simp [componentOffset, blocksPerMcu, findComponent, hi]
  | k0 :: ks, c, d + 1, k, i, h, hi => by
    have := findComponent_of ks (c + 1) d k i (by simpa using h) hi
    simp only [componentOffset, List.take_succ_cons, blocksPerMcu_cons] at *
    rw [findComponent, if_neg (by omega), show blocksOf k0 + blocksPerMcu (List.take d ks) + i - blocksOf k0 =
      blocksPerMcu (List.take d ks) + i by omega, this]
    simp only [Prod.mk.injEq, and_true]
    omega

/-- A component's blocks lie within the MCU. -/
theorem componentOffset_add_le : ∀ (comps : List CompCfg) (d : Nat) (k : CompCfg), comps[d]? = some k →
    componentOffset comps d + blocksOf k ≤ blocksPerMcu comps
  | [], _, _, h => by simp at h
  | k0 :: ks, 0, k, h => by
    simp only [List.getElem?_cons_zero, Option.some.injEq] at h
    subst h
    rw [blocksPerMcu_cons]
    simp [componentOffset, blocksPerMcu]
  | k0 :: ks, d + 1, k, h => by
    have := componentOffset_add_le ks d k (by simpa using h)
    simp only [componentOffset, List.take_succ_cons, blocksPerMcu_cons] at *
    omega

end Sys2Proof.Machine
end

