-- ==== Sys2Proof/Laws/Step.lean ====
section
/-! SUPPORT. What a step can do, said once: an engine step with what it leaves, an engine's turn that passes, a host
read or write, a power-on reset. -/

namespace Sys2Proof.Machine

open Host (Outcome)

/-- What an engine step that takes the word `w` leaves, before a held write is released. `v` is the state the command
is run in, or the error raised in. -/
inductive EngineLeaves (s : State) : State → Prop where
  /-- The word, or the command it completes, is turned away. -/
  | error (w : Word) (rest : List Word) (v : State) (c : Cause) (op : BitVec 8) (j : Nat)
      (hf : s.fifo = w :: rest) (hp : s.ps ≠ .halted) (hc : c ≠ .none)
      (hv : v = popWord rest s ∨ ∃ op' hdr n, s.ps = .payload op' hdr n ∧ n + 1 = op'.len - 1 ∧
        v = commandComplete (stage (n + 1) w (popWord rest s))) :
      EngineLeaves s (raiseError c op j v)
  /-- The header of a command with payload is accepted. -/
  | header (w : Word) (rest : List Word) (op : Opcode) (hf : s.fifo = w :: rest) (hp : s.ps = .idle)
      (hd : decodeHeader w = .ok op) (hl : op.len ≠ 1) (hc : headerCheck op w (popWord rest s) = none) :
      EngineLeaves s { popWord rest s with ps := .payload op w 0 }
  /-- A payload word before the last is staged. -/
  | staged (w : Word) (rest : List Word) (op : Opcode) (hdr : Word) (n : Nat) (hf : s.fifo = w :: rest)
      (hp : s.ps = .payload op hdr n) (hc : payloadCheck op hdr w s.params = none) (hl : n + 1 ≠ op.len - 1) :
      EngineLeaves s { stage (n + 1) w (popWord rest s) with ps := .payload op hdr (n + 1) }
  /-- A command of one word commits. -/
  | oneWord (w : Word) (rest : List Word) (op : Opcode) (hf : s.fifo = w :: rest) (hp : s.ps = .idle)
      (hd : decodeHeader w = .ok op) (hl : op.len = 1) (hc : passes (assemble op w []) (popWord rest s)) :
      EngineLeaves s (commitOf (assemble op w []) (popWord rest s))
  /-- A command with payload commits at its last word. -/
  | lastWord (w : Word) (rest : List Word) (op : Opcode) (hdr : Word) (n : Nat) (v : State) (hf : s.fifo = w :: rest)
      (hp : s.ps = .payload op hdr n) (hw : payloadCheck op hdr w s.params = none) (hl : n + 1 = op.len - 1)
      (hv : v = commandComplete (stage (n + 1) w (popWord rest s)))
      (hc : passes (assemble op hdr (stagedWords (n + 1) (stage (n + 1) w (popWord rest s)))) v) :
      EngineLeaves s (commitOf (assemble op hdr (stagedWords (n + 1) (stage (n + 1) w (popWord rest s)))) v)

/-- An engine's turn with a next state is an engine step, then the release of a held write. -/
theorem engineTurn_cases {s : State} {m : Move} (hm : engineTurn s = m) :
    (∀ t, m = .next t → ∃ u, EngineLeaves s u ∧ t = releaseHeld u) ∧
    (∀ i v t, m = .run i v → afterEngine (exec i v) = .next t → ∃ u, EngineLeaves s u ∧ t = releaseHeld u) := by
  have hrun : ∀ (i : Instr) (v t : State), afterEngine (exec i v) = .next t →
      (∀ c j, c ≠ .none → EngineLeaves s (raiseError c i.opcode.code j v)) →
      (passes i v → EngineLeaves s (commitOf i v)) → ∃ u, EngineLeaves s u ∧ t = releaseHeld u := by
    intro i v t h he hc
    rcases exec_cases i v with ⟨c, j, hne, hx⟩ | ⟨hp, hx⟩ <;> rw [hx] at h <;>
      simp only [afterEngine, Outcome.next.injEq] at h
    · exact ⟨_, he c j hne, h.symm⟩
    · exact ⟨_, hc hp, h.symm⟩
  subst hm
  simp only [engineTurn]
  rcases engineMove_cases s with ⟨-, h⟩ | ⟨-, -, h⟩ | ⟨-, -, h⟩ | ⟨w, rest, hp, hf, h⟩ | ⟨op, hdr, n, w, rest, hp, hf, h⟩
  · simp [h]
  · simp [h]
  · simp [h]
  · rcases headerMove_cases w (popWord rest s) with ⟨c, op, hc, hm⟩ | ⟨op, hd, hl, hm⟩ | ⟨op, hd, hl, hk, hm⟩ <;>
      rw [h, hm]
    · refine ⟨fun t ht => ⟨_, .error w rest _ c op 0 hf (by simp [hp]) hc (.inl rfl), ?_⟩, by simp⟩
      simpa using ht.symm
    · refine ⟨by simp, fun i v t hiv hx => ?_⟩
      simp only [Move.run.injEq] at hiv
      obtain ⟨rfl, rfl⟩ := hiv
      exact hrun _ _ _ hx (fun c j hc => .error w rest _ c _ j hf (by simp [hp]) hc (.inl rfl))
        (fun hc => .oneWord w rest op hf hp hd hl hc)
    · refine ⟨fun t ht => ⟨_, .header w rest op hf hp hd hl hk, ?_⟩, by simp⟩
      simpa using ht.symm
  · rcases payloadMove_cases op hdr n w (popWord rest s) with ⟨c, hc, hm⟩ | ⟨hc, hl, hm⟩ | ⟨hc, hl, hm⟩ <;> rw [h, hm]
    · refine ⟨fun t ht => ⟨_, .error w rest _ c op.code (n + 1) hf (by simp [hp]) hc (.inl rfl), ?_⟩, by simp⟩
      simpa using ht.symm
    · refine ⟨by simp, fun i v t hiv hx => ?_⟩
      simp only [Move.run.injEq] at hiv
      obtain ⟨rfl, rfl⟩ := hiv
      exact hrun _ _ _ hx (fun c j hc => .error w rest _ c _ j hf (by simp [hp]) hc (.inr ⟨op, hdr, n, hp, hl, rfl⟩))
        (fun hp' => .lastWord w rest op hdr n _ hf hp hc hl rfl hp')
    · refine ⟨fun t ht => ⟨_, .staged w rest op hdr n hf hp hc hl, ?_⟩, by simp⟩
      simpa using ht.symm

/-- Where the engine is next and has a word to take, the move is an engine's turn. -/
theorem nextMove_of_engineNext {s : State} {ts : List Turn} (h : s.engineNext ts) (he : engineEnabled s = true) :
    nextMove s = engineTurn { s with agenda := ts } := by
  rcases h with ⟨ha, rfl⟩ | ha | ⟨m, a, us, ha, hh, rfl⟩
  · simp only [nextMove, ha]
    rw [← ha]
  · simp only [nextMove, ha, he, if_true]
  · simp only [nextMove, ha, hh, if_true]
    rw [← ha]

/-- A step with a next state is one of five things. -/
theorem step_cases {s t : State} (h : step s = .next t) :
    (∃ ts u, (ts = s.agenda ∨ s.agenda = .engine :: ts) ∧ EngineLeaves { s with agenda := ts } u ∧ t = releaseHeld u) ∨
    (∃ ts, s.agenda = .engine :: ts ∧ engineEnabled s = false ∧ t = { s with agenda := ts }) ∨
    (∃ m off ts, s.agenda = .access m (.read off 32) :: ts ∧ off.toNat % 4 = 0 ∧ holds m s = false ∧
      t = hostRead off.toNat { s with agenda := ts }) ∨
    (∃ m off w ts, s.agenda = .access m (.write off 32 w) :: ts ∧ off.toNat % 4 = 0 ∧ holds m s = false ∧
      t = hostWrite m off.toNat w { s with agenda := ts }) ∨
    (∃ ts, s.agenda = .powerOn :: ts ∧ t = resetEngine { s with agenda := ts }) := by
  have hturn : ∀ s0 : State, nextMove s = engineTurn s0 → ∃ u, EngineLeaves s0 u ∧ t = releaseHeld u := by
    intro s0 hn
    unfold step at h
    rw [hn] at h
    rcases hm : engineTurn s0 with ⟨i, v⟩ | u | f | r <;> rw [hm] at h <;> simp only [reduceCtorEq] at h
    · exact (engineTurn_cases hm).2 i v t rfl h
    · exact (engineTurn_cases hm).1 t (by simpa using h)
  rcases ha : s.agenda with _ | ⟨turn, ts⟩
  · obtain ⟨u, hu, ht⟩ := hturn s (by simp [nextMove, ha])
    refine .inl ⟨[], u, .inl rfl, ?_, ht⟩
    simpa [← ha] using hu
  · rcases turn with _ | ⟨m, a⟩ | _
    · by_cases he : engineEnabled s = true
      · obtain ⟨u, hu, ht⟩ := hturn { s with agenda := ts } (by simp [nextMove, ha, he])
        exact .inl ⟨ts, u, .inr rfl, hu, ht⟩
      · refine .inr (.inl ⟨ts, rfl, by simpa using he, ?_⟩)
        simpa [step, nextMove, ha, he] using h.symm
    · by_cases hh : holds m s = true
      · obtain ⟨u, hu, ht⟩ := hturn s (by simp [nextMove, ha, hh])
        refine .inl ⟨.access m a :: ts, u, .inl rfl, ?_, ht⟩
        simpa [← ha] using hu
      · simp only [step, nextMove, ha, hh, Bool.false_eq_true, if_false, accessMove] at h
        by_cases hl : a.legal = true
        · rcases a with ⟨off, width⟩ | ⟨off, width, w⟩
          · simp only [Access.legal, Bool.and_eq_true, beq_iff_eq] at hl
            obtain ⟨rfl, ho⟩ := hl
            refine .inr (.inr (.inl ⟨m, off, ts, rfl, ho, by simpa using hh, ?_⟩))
            simpa [Access.legal, ho] using h.symm
          · simp only [Access.legal, Bool.and_eq_true, beq_iff_eq] at hl
            obtain ⟨rfl, ho⟩ := hl
            refine .inr (.inr (.inr (.inl ⟨m, off, w, ts, rfl, ho, by simpa using hh, ?_⟩)))
            simpa [Access.legal, ho] using h.symm
        · simp [hl] at h
    · refine .inr (.inr (.inr (.inr ⟨ts, rfl, ?_⟩)))
      simpa [step, nextMove, ha] using h.symm

/-- What a host write can do to the engine: reset it, set the enables, clear DONE, append a word, hold a word, nothing. -/
theorem hostWrite_cases (m : Master) (off : Nat) (w : Word) (s : State) :
    hostWrite m off w s = { resetEngine s with resp := some .writeDone } ∨
    hostWrite m off w s = { s with doneIE := w.getLsbD 0, errIE := w.getLsbD 1, resp := some .writeDone } ∨
    hostWrite m off w s = { s with done := false, resp := some .writeDone } ∨
    (s.err = false ∧ s.fifo.length < s.params.fifoDepth ∧
      hostWrite m off w s = { s with fifo := s.fifo ++ [w], resp := some .writeDone }) ∨
    (s.err = false ∧ s.params.fifoDepth ≤ s.fifo.length ∧ hostWrite m off w s = { s with held := s.held ++ [⟨m, w⟩] }) ∨
    hostWrite m off w s = { s with resp := some .writeDone } := by
  unfold hostWrite
  cases targetAt s.params off
  case ctrl =>
    by_cases h : w.getLsbD 31 = true
    · exact .inl (by rw [writeCtrl, if_pos h])
    · exact .inr (.inl (by rw [writeCtrl, if_neg h]))
  case status =>
    by_cases h : w.getLsbD 1 = true
    · exact .inr (.inr (.inl (by rw [writeStatus, if_pos h])))
    · exact .inr (.inr (.inr (.inr (.inr (by rw [writeStatus, if_neg h])))))
  case cmdport =>
    by_cases he : s.err = true
    · exact .inr (.inr (.inr (.inr (.inr (by simp only [portReady, he, Bool.true_or, if_true, writeCmdPort])))))
    · rw [Bool.not_eq_true] at he
      by_cases hl : s.fifo.length < s.params.fifoDepth
      · refine .inr (.inr (.inr (.inl ⟨he, hl, ?_⟩)))
        simp only [portReady, he, Bool.false_or, hl, decide_true, if_true, writeCmdPort, Bool.false_eq_true, if_false]
      · refine .inr (.inr (.inr (.inr (.inl ⟨he, Nat.not_lt.1 hl, ?_⟩))))
        simp only [portReady, he, Bool.false_or, hl, decide_false, Bool.false_eq_true, if_false]
  all_goals exact .inr (.inr (.inr (.inr (.inr rfl))))

/-! ### Runs (Host/Core.lean) -/

/-- A run of no step. -/
theorem run_zero (s : State) : Host.Core.run Sys2Proof.core 0 s = .next s := rfl

/-- A run of one step more, of any machine. -/
theorem run_succ_next (M : Host.Core) (k : Nat) {s t : M.State} (h : M.step s = .next t) :
    Host.Core.run M (k + 1) s = Host.Core.run M k t := by
  simp [Host.Core.run, h]

/-- A run whose first step has a next state. -/
theorem run_of_step_next (k : Nat) {s t : State} (h : step s = .next t) :
    Host.Core.run Sys2Proof.core (k + 1) s = Host.Core.run Sys2Proof.core k t :=
  run_succ_next Sys2Proof.core k h

/-- A run whose first step is a fault goes nowhere, of any machine. -/
theorem run_succ_fault (M : Host.Core) (k : Nat) {s : M.State} {f : M.Fault} (h : M.step s = .fault f) :
    Host.Core.run M (k + 1) s = .fault f := by
  simp [Host.Core.run, h]

/-- A run from a state with a fault reaches that state alone. -/
theorem eq_of_reaches {s t : State} {f : Fault} (h : step s = .fault f) (hr : s.reaches t) : t = s := by
  obtain ⟨k, hk⟩ := hr
  rcases k with _ | k
  · exact (Host.Outcome.next.inj hk).symm
  · rw [run_succ_fault Sys2Proof.core k h] at hk
    simp at hk

/-- A run of one step, of any machine. -/
theorem run_one_any (M : Host.Core) (s : M.State) : Host.Core.run M 1 s = M.step s := by
  simp only [Host.Core.run]
  cases M.step s <;> rfl

/-- A run of one step. -/
theorem run_one (s : State) : Host.Core.run Sys2Proof.core 1 s = step s := run_one_any Sys2Proof.core s

end Sys2Proof.Machine
end

