-- ==== Sys2Proof/Machine/Assembler.lean ====
section
/-! DEFINITION. The assembler syntax for command streams (spec/30_encoding.md R129) and its pseudo-commands (R130): from
text, as a list of characters, to commands. `none` means that the assembler refuses the text. It is a tool of the host;
the machine does not use it. What R129 leaves open of the text is log 17. -/

namespace Sys2Proof.Asm

/-! ### Text -/

/-- The pieces of a text between the separators `c`. -/
def splitAt (c : Char) : List Char → List (List Char)
  | [] => [[]]
  | x :: xs =>
    if x = c then [] :: splitAt c xs
    else
      match splitAt c xs with
      | [] => [[x]]
      | p :: ps => (x :: p) :: ps

/-- A space or a tab, or the carriage return of a line end. -/
def isBlank (c : Char) : Bool := c = ' ' || c = '\t' || c = '\r'

/-- The text without the blanks at its two ends. -/
def trim (s : List Char) : List Char := ((s.dropWhile isBlank).reverse.dropWhile isBlank).reverse

/-- The line up to its comment: `;` starts one. -/
def stripComment (s : List Char) : List Char := trim (s.takeWhile (fun c => c != ';'))

/-! ### Numbers -/

/-- The value of a digit of base 10 or 16. DESIGN CHOICE (log 17): a hexadecimal digit may be of either case. -/
def digit (base : Nat) (c : Char) : Option Nat :=
  let n := c.toNat
  let v :=
    if 48 ≤ n ∧ n ≤ 57 then n - 48
    else if 65 ≤ n ∧ n ≤ 70 then n - 55
    else if 97 ≤ n ∧ n ≤ 102 then n - 87
    else base
  if v < base then some v else none

/-- The value of a sequence of digits, after what has been read already. -/
def digits (base : Nat) : Nat → List Char → Option Nat
  | acc, [] => some acc
  | acc, c :: cs =>
    match digit base c with
    | some d => digits base (acc * base + d) cs
    | none => none

/-- A number "in decimal, or in hexadecimal with `0x`". DESIGN CHOICE (log 17), where R129 is silent: the group separator
`_` of spec/00_scope.md R12 and an upper-case `0X` are refused, and leading zeros are taken. -/
def unsigned : List Char → Option Nat
  | [] => none
  | '0' :: 'x' :: [] => none
  | '0' :: 'x' :: cs => digits 16 0 cs
  | cs => digits 10 0 cs

/-- A number with an optional leading `-`. DESIGN CHOICE (log 17): the `-` may stand before a hexadecimal number too. -/
def signed : List Char → Option Int
  | '-' :: cs => (unsigned cs).map (fun n => -(n : Int))
  | cs => (unsigned cs).map (fun n => (n : Int))

/-! ### Operands: one outside its field's width is refused -/

/-- An operand of an unsigned field of `w` bits. -/
def field (w : Nat) (s : List Char) : Option (BitVec w) :=
  match unsigned s with
  | some n => if n < 2 ^ w then some (BitVec.ofNat w n) else none
  | none => none

/-- A table entry: the 16 bits of format E's two entry fields (R119). -/
def entry (s : List Char) : Option Word := (field 16 s).map (fun v => v.setWidth 32)

/-- A coefficient: the 16-bit two's-complement field of format K, sent modulo 2^32 (R120, R129). -/
def coef (s : List Char) : Option Word :=
  match signed s with
  | some v => if -32768 ≤ v ∧ v ≤ 32767 then some (BitVec.ofInt 32 v) else none
  | none => none

/-- All of them, or nothing if one is refused. -/
def allOf {α β : Type} (f : α → Option β) : List α → Option (List β)
  | [] => some []
  | x :: xs =>
    match f x, allOf f xs with
    | some y, some ys => some (y :: ys)
    | _, _ => none

/-- The operands of a line, separated by commas. -/
def operands (s : List Char) : List (List Char) :=
  match trim s with
  | [] => []
  | t => (splitAt ',' t).map trim

/-- 64 payload words, when there are exactly 64 of them. -/
def exactly64 (ws : List Word) : Option (Vector Word 64) :=
  if ws.length = 64 then some (payload64 ws) else none

/-! ### Commands -/

/-- `SET_FRAME nc, width, height`. -/
def setFrame (nc width height : List Char) : Option Instr :=
  match field 4 nc, field 16 width, field 16 height with
  | some n, some w, some h => some (.setFrame n h w)
  | _, _, _ => none

/-- `SET_COMP ci, hs, vs, tq`. -/
def setComp (ci hs vs tq : List Char) : Option Instr :=
  match field 2 ci, field 4 hs, field 4 vs, field 4 tq with
  | some c, some h, some v, some t => some (.setComp c h v t)
  | _, _, _, _ => none

/-- `LOAD_QT pq, tq, e0, ..., e63`. -/
def loadQt (pq tq : List Char) (es : List (List Char)) : Option Instr :=
  match field 4 pq, field 4 tq, (allOf entry es).bind exactly64 with
  | some p, some t, some v => some (.loadQt p t v)
  | _, _, _ => none

/-- `BLOCK c0, ..., c63`. -/
def block (cs : List (List Char)) : Option Instr := ((allOf coef cs).bind exactly64).map Instr.block

/-- One `k:v` of `SPARSE_BLOCK`. -/
def sparsePair (s : List Char) : Option (Nat × Word) :=
  match (splitAt ':' s).map trim with
  | [k, v] =>
    match field 6 k, coef v with
    | some k, some v => some (k.toNat, v)
    | _, _ => none
  | _ => none

/-- `SPARSE_BLOCK k1:v1, k2:v2, ...`: the indices "must be distinct and in 0..63". DESIGN CHOICE (log 17): R130 shows at
least one pair and is silent on none; the assembler takes none as the all-zero `BLOCK`. -/
def sparseBlock (ps : List (List Char)) : Option Instr :=
  match allOf sparsePair ps with
  | some kvs =>
    if (kvs.map Prod.fst).Nodup then
      some (.block (payload64 ((List.range 64).map (fun k => (kvs.lookup k).getD 0))))
    else none
  | none => none

/-- One command of R129 or pseudo-command of R130, from its mnemonic and operands. -/
def command (name : List Char) (ops : List (List Char)) : Option (List Instr) :=
  let one (i : Option Instr) : Option (List Instr) := i.map (fun i => [i])
  match name, ops with
  | ['N', 'O', 'P'], [] => some [.nop]
  | ['S', 'E', 'T', '_', 'F', 'R', 'A', 'M', 'E'], [nc, w, h] => one (setFrame nc w h)
  | ['S', 'E', 'T', '_', 'C', 'O', 'M', 'P'], [ci, hs, vs, tq] => one (setComp ci hs vs tq)
  | ['L', 'O', 'A', 'D', '_', 'Q', 'T'], pq :: tq :: es => one (loadQt pq tq es)
  | ['S', 'T', 'A', 'R', 'T'], [] => some [.start]
  | ['B', 'L', 'O', 'C', 'K'], cs => one (block cs)
  | ['F', 'I', 'N', 'I', 'S', 'H'], [] => some [.finish]
  | ['Q', 'T', '_', 'F', 'L', 'A', 'T'], [pq, tq, v] => one (loadQt pq tq (List.replicate 64 v))
  | ['D', 'C', '_', 'B', 'L', 'O', 'C', 'K'], [d] => one (block (d :: List.replicate 63 ['0']))
  | ['Z', 'E', 'R', 'O', '_', 'B', 'L', 'O', 'C', 'K'], [] => one (block (List.replicate 64 ['0']))
  | ['S', 'P', 'A', 'R', 'S', 'E', '_', 'B', 'L', 'O', 'C', 'K'], ps => one (sparseBlock ps)
  | ['F', 'R', 'A', 'M', 'E', '1'], [w, h, hs, vs] =>
    match setFrame ['1'] w h, setComp ['0'] hs vs ['0'] with
    | some f, some c => some [f, c]
    | _, _ => none
  | _, _ => none

/-- One line: nothing, or one command. -/
def line (s : List Char) : Option (List Instr) :=
  match stripComment s with
  | [] => some []
  | t => command (t.takeWhile (fun c => !isBlank c)) (operands (t.dropWhile (fun c => !isBlank c)))

/-- A whole text: its commands in order, one a line. -/
def program (text : List Char) : Option (List Instr) := (allOf line (splitAt '\n' text)).map List.flatten

/-- The words of a text, in the order they are written to the command port. -/
def words (text : List Char) : Option (List Word) := (program text).map (fun is => is.flatMap encode)

end Sys2Proof.Asm
end

