-- ==== Sys2Proof/Tests/Slice0.lean ====
section
/-! SUPPORT. The model's own tests, on one step each: decoding, well-formedness, the commands, the host's accesses, the
assembler; and for every obligation with hypotheses a witness that they can be met. Expected values are those of
spec/95_test_vectors.md (named at each test) or worked out by hand from the rule that is named. -/

namespace Sys2Proof.Tests

open Sys2Proof Sys2Proof.Machine

/-! ### Helpers -/

/-- The instance of spec/95_test_vectors.md: maxima 64 × 64, FIFO depth 16. -/
def base : State := { State.reset with params := ⟨64, 64, 16⟩ }

/-- The next state, if there is one. -/
def after (o : Host.Outcome State Fault Refusal) : Option State :=
  match o with
  | .next s => some s
  | .fault _ | .refused _ => none

/-- The fault, if the machine stops with one. -/
def faultOf (o : Host.Outcome State Fault Refusal) : Option Fault :=
  match o with
  | .fault f => some f
  | .next _ | .refused _ => none

/-- The refusal, if there is one. -/
def refusalOf (o : Host.Outcome State Fault Refusal) : Option Refusal :=
  match o with
  | .refused r => some r
  | .next _ | .fault _ => none

/-- What a command leaves, seen through `f`. -/
def leaves {α : Type} (i : Instr) (s : State) (f : State → α) : Option α := (after (exec i s)).map f

/-- `ERRINFO` and `STATUS`. -/
def errAndStatus (s : State) : Word × Word := (readOffset s 0x10, readOffset s 0x0C)

/-- 64 equal words. -/
def flat (w : Word) : Vector Word 64 := payload64 (List.replicate 64 w)

/-- A word, then 63 zeros. -/
def dcWords (w : Word) : Vector Word 64 := payload64 (w :: List.replicate 63 0)

/-- The payload with words `v` at zigzag `k`, else 0. -/
def sparseWords (kvs : List (Nat × Word)) : Vector Word 64 :=
  payload64 ((List.range 64).map (fun k => (kvs.lookup k).getD 0))

/-- Table 0 all `v`, an 8 × 8 grayscale frame with 1 × 1 sampling: prefix G of spec/95_test_vectors.md §7 for `v = 1`. -/
def configured (v : Word) : State :=
  (commitSetFrame 1 8 8 (commitLoadQt 0 (flat v) base)).setComp 0 ⟨1, 1, 0⟩

/-- The same, with the frame open. -/
def opened : State := commitStart (configured 1)

/-- The same, with its one block of coefficient 80 stored. -/
def complete : State := commitBlock (dcWords 80) opened

/-- The same, after its `FINISH`: the end of program P1. -/
def finished : State := commitFinish complete

/-- The halted state of vector E1. -/
def halted : State := raiseError .illegalOpcode 7 0 base

/-- A full FIFO of `NOP`s with one write held. -/
def holding : State :=
  { base with fifo := List.replicate 16 0, held := [⟨.host, 0x04000000⟩] }

/-- A host access next. -/
def withAccess (a : Access) (s : State) : State := { s with agenda := [.access .host a] }

/-! ### Well-formedness: each check refuses an ill-formed command -/

theorem test_wf_accepts_setFrame : (Instr.setFrame 3 10 13).wf = true := by decide
theorem test_wf_refuses_count : (Instr.setFrame 2 10 13).wf = false := by decide
theorem test_wf_refuses_height : (Instr.setFrame 3 0 13).wf = false := by decide
theorem test_wf_refuses_width : (Instr.setFrame 3 10 0).wf = false := by decide
theorem test_wf_accepts_setComp : (Instr.setComp 2 4 1 1).wf = true := by decide
theorem test_wf_refuses_component : (Instr.setComp 3 1 1 0).wf = false := by decide
theorem test_wf_refuses_hs : (Instr.setComp 0 0 1 0).wf = false := by decide
theorem test_wf_refuses_vs : (Instr.setComp 0 1 5 0).wf = false := by decide
theorem test_wf_refuses_setComp_table : (Instr.setComp 0 1 1 2).wf = false := by decide
theorem test_wf_refuses_precision : (Instr.loadQt 2 0 (flat 1)).wf = false := by decide
theorem test_wf_refuses_loadQt_table : (Instr.loadQt 0 2 (flat 1)).wf = false := by decide
theorem test_wf_accepts_loadQt : (Instr.loadQt 1 1 (flat 0xFFFF)).wf = true := by decide
theorem test_wf_refuses_entry8 : (Instr.loadQt 0 0 (sparseWords [(63, 0x100)])).wf = false := by decide
theorem test_wf_refuses_entry16 : (Instr.loadQt 1 0 (sparseWords [(0, 0x10000)])).wf = false := by decide
theorem test_wf_accepts_block : (Instr.block (sparseWords [(0, 0xFFFF8000), (63, 0x7FFF)])).wf = true := by decide
theorem test_wf_refuses_coefficient_high : (Instr.block (sparseWords [(63, 0x8000)])).wf = false := by decide
theorem test_wf_refuses_coefficient_low : (Instr.block (sparseWords [(0, 0xFFFF7FFF)])).wf = false := by decide

/-! ### Decoding: words written out from the formats of R114 to R120 -/

/-- Opcode 0x00, 24 zero bits (R114, R122). -/
theorem test_decode_nop : decode [0b00000000000000000000000000000000] = .ok .nop [] := by decide

/-- Opcode 0x01, NC 0011; then HEIGHT 0000001000110000, WIDTH 0000001111011110 (R115, R117; W1: 990 × 560). -/
theorem test_decode_setFrame :
    decode [0b00000001000000000000000000000011, 0b00000010001100000000001111011110] = .ok (.setFrame 3 560 990) [] := by
  decide

/-- Opcode 0x02, CI 10, HS 0100, VS 0011, TQ 0001 (R116; §3: `SET_COMP 2, 4, 3, 1` is 0x0202_0431). -/
theorem test_decode_setComp :
    decode [0b00000010000000100000010000110001, 0x04000000] = .ok (.setComp 2 4 3 1) [0x04000000] := by decide

/-- Opcode 0x03, PQ 0001, TQ 0000, then 64 words of 300 (R118, R119; program P6). -/
theorem test_decode_loadQt :
    decode (0b00000011000000000000000000010000 :: List.replicate 64 0x12C) = .ok (.loadQt 1 0 (flat 300)) [] := by
  decide

/-- Opcode 0x04 (R114). -/
theorem test_decode_start : decode [0b00000100000000000000000000000000] = .ok .start [] := by decide

/-- Opcode 0x05, then -160 and 63 zeros (R114, R120; §3: `DC_BLOCK -160`). -/
theorem test_decode_block :
    decode (0b00000101000000000000000000000000 :: 0b11111111111111111111111101100000 :: List.replicate 63 0) =
      .ok (.block (dcWords 0xFFFFFF60)) [] := by
  decide

/-- Opcode 0x06 (R114). -/
theorem test_decode_finish : decode [0b00000110000000000000000000000000] = .ok .finish [] := by decide

/-- A reserved opcode, by name (R123; E2). -/
theorem test_decode_reserved_opcode : decode [0xFF000000] = .illegalOpcode 0xFF := by decide

/-- Reserved bits, by name (R124; E7, E16, E20). -/
theorem test_decode_reserved_bits :
    [0x01000013, 0x02040110, 0x03000100].map decodeHeader =
      [.reservedBits .setFrame, .reservedBits .setComp, .reservedBits .loadQt] := by decide

/-- A command cut short (R262). -/
theorem test_decode_incomplete : decode (0x05000000 :: List.replicate 63 0) = .incomplete := by decide

/-- The opcode table's numbering: the second word of `SET_FRAME` is bits 63..32. -/
theorem test_decode_table_word : decodeTableWord 64 0x000A000D01000003 = some (.setFrame 3 10 13) := by decide

/-- The encoder, on §3's `SET_COMP 1, 1, 1, 1`. -/
theorem test_encode_setComp : encode (.setComp 1 1 1 1) = [0x02010111] := by decide

/-! ### The commands -/

/-- A `NOP` inside a frame leaves `STATUS` 0x198 (§7). -/
theorem test_nop : leaves .nop opened errAndStatus = some (0, 0x198) := by decide +kernel

/-- F1's registers, with maxima that admit them. -/
theorem test_setFrame_commits :
    leaves (.setFrame 3 560 990) { base with params := ⟨990, 560, 16⟩ }
      (fun s => (readOffset s 0x1C, readOffset s 0x20, readOffset s 0x0C)) = some (0x023003DE, 3, 0x80) := by
  decide +kernel

/-- E9: a height above the maximum fails at word 1. -/
theorem test_setFrame_height : leaves (.setFrame 1 65 8) base errAndStatus = some (0x00010109, 4) := by decide +kernel

/-- F3. -/
theorem test_setComp_commits :
    leaves (.setComp 0 2 2 0) base (fun s => (readOffset s 0x24, readOffset s 0x0C)) = some (0x220, 0x100) := by
  decide +kernel

/-- E11: the component index is checked before the factors and the table. -/
theorem test_setComp_order : leaves (.setComp 3 5 1 2) base errAndStatus = some (0x207, 4) := by decide +kernel

/-- T1, W2: entry `k` = `k + 1` stands at raster `ZZ[k]`. -/
theorem test_loadQt_commits :
    leaves (.loadQt 0 0 (payload64 ((List.range 64).map (fun k => BitVec.ofNat 32 (k + 1))))) base
      (fun s => ([0x100, 0x104, 0x108, 0x120, 0x1FC].map (readOffset s), readOffset s 0x0C)) =
      some ([1, 2, 6, 3, 64], 0x10) := by decide +kernel

/-- E22: the last entry word of a 16-bit table has bit 16 set. -/
theorem test_loadQt_entry :
    leaves (.loadQt 1 1 (payload64 (List.replicate 63 0xFFFF ++ [0x10000]))) base errAndStatus =
      some (0x00400305, 4) := by decide +kernel

/-- F6: a 9 × 8 frame has two MCUs. -/
theorem test_start_commits :
    leaves .start (commitSetFrame 1 8 9 (configured 1))
      (fun s => [0x30, 0x34, 0x38, 0x3C, 0x0C].map (readOffset s)) = some [0x10002, 0x11, 2, 0, 0x198] := by
  decide +kernel

/-- E24. -/
theorem test_start_incomplete : leaves .start base errAndStatus = some (0x40A, 4) := by decide +kernel

/-- §5, raster 1 = 100 (zigzag 1) and raster 8 of `LASTDQ`; rows of `LASTBLK`, a word of the plane's second row. -/
theorem test_block_commits :
    leaves (.block (sparseWords [(1, 100)])) opened
      (fun s => ((List.range 9).map (fun i => s.lastblk.read i), s.lastdq.read 1, s.plane.read (planeKey 0 7 7), s.blkcnt)) =
      some ([145, 143, 138, 131, 125, 118, 113, 111, 145].map (fun v => some v), some 100, some 111, 1) := by
  decide +kernel

/-- E36: the last coefficient word is no sign-extended 16-bit value. -/
theorem test_block_coefficient :
    leaves (.block (sparseWords [(63, 0xFFFF7FFF)])) opened errAndStatus = some (0x00400505, 0x194) := by decide +kernel

/-- P1's end. -/
theorem test_finish_commits :
    leaves .finish complete (fun s => (readOffset s 0x0C, readOffset s 0x01000000, readOffset s 0x010000BC)) =
      some (0x192, 0x8A8A8A8A, 0x8A8A8A8A) := by decide +kernel

/-- E28: `FINISH` before the last block. -/
theorem test_finish_early : leaves .finish opened errAndStatus = some (0x603, 0x194) := by decide +kernel

/-! ### Parts of the commands -/

/-- §4: 4:2:2, 32 × 8, blocks 1, 3, 5: `(c, row, column)` of R177. -/
theorem test_block_order :
    [1, 3, 5].map (blockPosition [⟨2, 1, 0⟩, ⟨1, 1, 0⟩, ⟨1, 1, 0⟩] 2) = [⟨0, 0, 1⟩, ⟨2, 0, 0⟩, ⟨0, 0, 3⟩] := by decide

/-- §4: 100 × 50 with factor 3 × 1 has 5 × 7 MCUs of 5 blocks. -/
theorem test_grid :
    (mcuCount 100 3, mcuCount 50 1, blocksPerMcu [⟨3, 1, 0⟩, ⟨1, 1, 0⟩, ⟨1, 1, 0⟩]) = (5, 7, 5) := by decide

/-- §6: HS = 2, HMAX = 3. -/
theorem test_upsampling :
    (List.range 12).map (fun x => upsampleIndex x 2 3) = [0, 0, 1, 2, 2, 3, 4, 4, 5, 6, 6, 7] := by decide

/-- §6: a triple with both chroma components off neutral. -/
theorem test_colour : ycc 138 96 192 = [228, 103, 81] := by decide

/-- B7: the largest product in magnitude, and its sample. -/
theorem test_dequantization_extreme :
    (descale ((-32768) * 65535 * 8386816), BitVec.ofInt 32 ((-32768) * 65535)) = (0, 0x80008000) := by decide

/-! ### The host's accesses -/

/-- H6: the reserved bits of `CTRL` are ignored. -/
theorem test_ctrl_reserved :
    (after (step (withAccess (.write 0x08 32 0x7FFFFFFF) base))).map (fun s => readOffset s 0x08) = some 3 := by
  decide +kernel

/-- H10 and H11: `DONE` is cleared by a 1 and by nothing else. -/
theorem test_done_w1c :
    [0x00000002, 0xFFFFFFFD].map
      (fun w => (after (step (withAccess (.write 0x0C 32 w) finished))).map (fun s => readOffset s 0x0C)) =
      [some 0x190, some 0x192] := by decide +kernel

/-- H9: an 8-bit read and a misaligned one are refused. -/
theorem test_bus_error :
    [Access.read 0 8, Access.read 2 32].map (fun a => refusalOf (step (withAccess a base))) =
      [some (.busError (.read 0 8)), some (.busError (.read 2 32))] := by decide +kernel

/-- H14: a soft reset after an error. -/
theorem test_soft_reset :
    (after (step (withAccess (.write 0x08 32 0x80000000) halted))).map
      (fun s => [0x0C, 0x10, 0x08, 0x18].map (readOffset s)) = some [0, 0, 0, 0x00100010] := by decide +kernel

/-- A held write enters the FIFO when the next word is taken (R93). -/
theorem test_held_write :
    (after (step holding)).map (fun s => (s.fifo, s.held)) = some (List.replicate 15 0 ++ [0x04000000], []) := by
  decide +kernel

/-- The three ways of having no next state: R290, R262 (P7), R259. -/
theorem test_no_next_state :
    [base, { base with ps := .payload .setFrame 0x01000001 0 }, halted].map (fun s => faultOf (step s)) =
      [some .waiting, some .stuck, some .halted] := by decide +kernel

/-- H12: `DONE` with `DONE_IE` raises the interrupt. -/
theorem test_interrupt : readOffset { finished with doneIE := true } 0x0C = 0x1D2 := by decide +kernel

/-! ### The assembler -/

/-- R129 and R130 on one text (words of §3). -/
theorem test_assembler :
    Asm.words "SET_FRAME 3, 0xD, 10 ; a comment\n\nFRAME1 8, 8, 2, 1\nDC_BLOCK -160\nFINISH".toList =
      some ([0x01000003, 0x000A000D, 0x01000001, 0x00080008, 0x02000210] ++
        (0x05000000 :: 0xFFFFFF60 :: List.replicate 63 0) ++ [0x06000000]) := by decide

/-- `SPARSE_BLOCK` and `QT_FLAT` (R130). -/
theorem test_assembler_pseudo :
    Asm.program "QT_FLAT 1, 0, 300\nSPARSE_BLOCK 0:-160, 63:1".toList =
      some [.loadQt 1 0 (flat 300), .block (sparseWords [(0, 0xFFFFFF60), (63, 1)])] := by decide

/-- No pair at all is the all-zero block (log 17). -/
theorem test_assembler_sparse_none :
    Asm.program "SPARSE_BLOCK".toList = some [.block (flat 0)] := by decide

/-- Hexadecimal operands (log 17): either case of a digit is taken, a group separator and an upper-case `0X` are not. -/
theorem test_assembler_hexadecimal :
    ["0x2C", "0x2c", "0x0_2C", "0X2C"].map (fun t => Asm.unsigned t.toList) = [some 44, some 44, none, none] := by decide

/-- What it refuses: an operand outside its field, a repeated index, a missing operand, an unknown mnemonic. -/
theorem test_assembler_refuses :
    ["SET_COMP 4, 1, 1, 0", "QT_FLAT 0, 0, 65536", "SPARSE_BLOCK 1:1, 1:2", "SET_FRAME 1, 8", "nop"].map
      (fun t => Asm.words t.toList) = [none, none, none, none, none] := by decide

/-! ### The host's duties (R270) and the end of a run (R271) -/

/-- A host's plan: each word one write of `CMDPORT`. -/
def planOf (ws : List Word) : List Turn := ws.map (fun w => .access .host (.write 0x14 32 w))

/-- What P1's image holds: coefficient 80 as DC, in its one block. -/
def image1 : Nat → BlockPos → Vector Word 64 := fun _ _ => dcWords 80

/-- P1, as commands: table, frame, component, `START`, its one block, `FINISH`. -/
def program1 : List Instr :=
  [.loadQt 0 0 (flat 1), .setFrame 1 8 8, .setComp 0 1 1 0, .start, .block (dcWords 80), .finish]

/-- A host that sends P1, with a `NOP` and an acknowledgement of `DONE` in between, keeps its duties. -/
theorem test_duties_kept :
    { base with agenda := .access .host (.write 0x0C 32 2) :: planOf ((Instr.nop :: program1).flatMap encode) }.HostDuties
      image1 (.nop :: program1) :=
  ⟨by decide +kernel, by decide +kernel, by decide +kernel, by decide +kernel⟩

/-- The liberty to send `START` at any time: with no component configured none names a table, so no duty is broken, and
the command fails with INCOMPLETE_CONFIG (E24's word). -/
theorem test_duties_start_incomplete :
    dutifulCommands image1 0 [.setFrame 1 8 8, .start] base = true ∧
    leaves .start (commitSetFrame 1 8 8 base) (fun t => readOffset t 0x10) = some 0x40A := by decide +kernel

/-- What breaks one: a table not loaded, configuring inside a frame, a block too many, too few blocks, another block
than the image's, `FINISH` before the last block, no `FINISH`, a command after an error. -/
theorem test_duties_broken :
    [[.setFrame 1 8 8, .setComp 0 1 1 0, .start], program1.take 4 ++ [.setComp 0 1 1 0],
      program1.take 5 ++ [.block (dcWords 80), .finish], program1.take 4, program1.take 4 ++ [.block (flat 0), .finish],
      program1.take 4 ++ [.finish], program1.take 5, [.setFrame 2 8 8, .nop]].all
      (fun is => !dutifulCommands image1 0 is base) = true := by decide +kernel

/-- A misaligned or 8-bit access breaks the duty on the form of accesses; a payload word too few, that on framing. -/
theorem test_duties_form :
    [Access.read 2 32, Access.write 0x14 8 0].map (fun a => (Turn.access .host a).dutiful) = [false, false] ∧
    { base with agenda := planOf [0x05000000, 0] }.pendingWords ≠ [Instr.block (flat 0)].flatMap encode := by
  decide +kernel

/-- The ends of a run: P1's end; an error; a wait with a block missing, with no `FINISH`, and in the middle of a command. -/
theorem test_end_of_run :
    (finished.succeeded, finished.hangs) = (true, false) ∧ (halted.failed, halted.hangs) = (true, false) ∧
    [opened, complete, { opened with ps := .payload .block 0x05000000 0 }].map State.hangs = [true, true, true] := by
  decide +kernel

/-! ### Witnesses: the hypotheses of each obligation can be met, each clause's at a boundary of its range -/

/-- A state in which `START` has been checked up to the tables: three components, the third missing or without table. -/
def colour : State :=
  (((commitSetFrame 3 10 13 (commitLoadQt 0 (flat 1) base)).setComp 0 ⟨4, 4, 0⟩).setComp 1 ⟨1, 1, 0⟩)

/-- `State.accepts`, as a computation. -/
def acceptsB (s : State) (i : Instr) : Bool :=
  headerCheck i.opcode (encodeHeader i) s == none &&
    (encodePayload i).all (fun w => payloadCheck i.opcode (encodeHeader i) w s.params == none)

/-- `acceptsB` is `State.accepts`. -/
theorem acceptsB_iff (s : State) (i : Instr) : acceptsB s i = true ↔ s.accepts i := by
  simp [acceptsB]

/-- The bus has nothing held by the host. -/
def freeBus (s : State) : Bool := !holds .host s

theorem witness_EncodeOfDecodeIsIdentity :
    decode [0x01000003, 0xFFFFFFFF, 0x07000000] = .ok (.setFrame 3 0xFFFF 0xFFFF) [0x07000000] := by decide

theorem witness_CommandLengthFromOpcode :
    decode (0x05000000 :: List.replicate 65 0xFFFF8000) = .ok (.block (flat 0xFFFF8000)) [0xFFFF8000] := by decide

theorem witness_RejectedHeadersHalt :
    (7 ≤ ((0x07000000 : Word).extractLsb' 24 8).toNat ∧ 7 ≤ ((0xFF000000 : Word).extractLsb' 24 8).toNat) ∧
    ((0x00000001 : Word).extractLsb' 24 8 = Opcode.nop.code ∧ (0x00000001 : Word) &&& Opcode.nop.resMask ≠ 0) ∧
    ((0x02800000 : Word).extractLsb' 24 8 = Opcode.setComp.code ∧ (0x02800000 : Word) &&& Opcode.setComp.resMask ≠ 0) ∧
    (base.agenda = [] ∧ base.held = [] ∧ base.ps = .idle) := by decide +kernel

theorem witness_CoefficientWordLegality :
    coefCheck 0x7FFF = none ∧ coefCheck 0xFFFF8000 = none ∧ coefCheck 0x8000 ≠ none ∧ coefCheck 0xFFFF7FFF ≠ none ∧
    coefValue (BitVec.ofInt 32 (-32768)) = -32768 ∧ coefValue (BitVec.ofInt 32 32767) = 32767 := by decide +kernel

theorem witness_EntryWordLegality :
    entryCheck 0 255 = none ∧ entryCheck 0 256 = some .outOfRangeField ∧ entryCheck 1 65535 = none ∧
    entryCheck 1 65536 = some .outOfRangeField := by decide +kernel

/-- In both directions: a command that passes, and one of each kind that is well-formed and admitted. -/
theorem witness_WellFormedCommandsPass :
    acceptsB base (.setFrame 1 64 64) = true ∧ (Instr.setFrame 3 1 64).wf = true ∧ (64 ≤ base.params.maxFrameW) ∧
    acceptsB base (.setComp 2 4 4 1) = true ∧ acceptsB base (.loadQt 1 1 (flat 0xFFFF)) = true ∧
    acceptsB (configured 1) .start = true ∧ acceptsB opened (.block (flat 0xFFFF8000)) = true ∧
    acceptsB complete .finish = true := by
  decide +kernel

/-- A `START` that nothing, a planned engine's turn, or a waiting access comes before; a table's last word. -/
theorem witness_CompleteCommandIsRun :
    (let s := { base with fifo := [0x04000000] }
     s.engineNext [] ∧ { s with agenda := [.engine, .powerOn] }.engineNext [.powerOn] ∧
      s.ps = .idle ∧ s.fifo = 0x04000000 :: [] ∧ decodeHeader 0x04000000 = .ok .start ∧ Opcode.start.len = 1) ∧
    holding.held ≠ [] ∧ (withAccess (.read 0x0C 32) holding).engineNext [.access .host (.read 0x0C 32)] ∧
    (let s := { base with ps := .payload .loadQt 0x03000000 63, fifo := [255, 0],
                          stg := Memory.write [] 1 (List.replicate 63 0), agenda := [.engine] }
     s.PortOk ∧ s.engineNext [] ∧ s.ps = .payload .loadQt 0x03000000 63 ∧ s.fifo = 255 :: [0] ∧
      63 + 2 = Opcode.loadQt.len ∧ payloadCheck .loadQt 0x03000000 255 s.params = none) := by
  refine ⟨⟨.inl ⟨by decide +kernel, rfl⟩, .inr (.inl rfl), by decide +kernel⟩, by decide +kernel,
    .inr (.inr ⟨.host, .read 0x0C 32, [], rfl, by decide +kernel, rfl⟩), by decide +kernel, .inr (.inl rfl), by decide +kernel⟩

/-- Accepted, refused at its header, refused at its last payload word. -/
theorem witness_WordStepsRunOneCommand :
    (base.ps = .idle ∧ base.agenda = [] ∧ base.held = []) ∧ acceptsB base (.setComp 2 4 4 1) = true ∧
    decidingWord (.loadQt 2 0 (flat 1)) base = 0 ∧
    decidingWord (.loadQt 0 0 (sparseWords [(63, 256)])) base = 64 := by decide +kernel

theorem witness_EngineStepTakesOneWord :
    (base.agenda = [] ∧ base.ps ≠ .halted ∧ halted.agenda = [] ∧ halted.ps = .halted) ∧
    (after (step { base with fifo := [0] })).map (fun t => (t.err, t.fifo, t.csi)) = some (false, [], 1) ∧
    (after (step { base with fifo := [0], agenda := [.engine, .powerOn] })).map (fun t => (t.csi, t.agenda)) =
      some (1, [.powerOn]) ∧
    (base.fifo = [] ∧ base.ps = .idle) ∧ base.hangs = true := by decide +kernel

/-- A state without error; a command its duties allow that fails all the same, and the `START` of the liberty. -/
theorem witness_EveryCommandHasANextState :
    base.err = false ∧ dutifulCommand .setFrame base = true ∧
    leaves (.setFrame 1 65 8) base (fun t => t.errInfo.cause) = some .invalidDimension ∧
    dutifulCommand .start (commitSetFrame 1 8 8 base) = true ∧
    dutifulCommand .start opened = true ∧ leaves .start opened (fun t => t.errInfo.cause) = some .sequence := by
  decide +kernel

theorem witness_PayloadWordStagedOrRejected :
    (payloadCheck .block 0x05000000 0x7FFF base.params = none ∧ 62 + 2 < Opcode.block.len) ∧
    payloadCheck .block 0x05000000 0x8000 base.params = some .outOfRangeField := by decide +kernel

theorem witness_NopDoesNothing :
    (base.agenda = [] ∧ base.held = [] ∧ base.ps = .idle) ∧
    ((0x00800000 : Word).extractLsb' 24 8 = 0x00 ∧ (0x00800000 : Word) ≠ 0x00000000) := by decide +kernel

/-- The frame open; the count 2; the width 65, the height 0; the maxima themselves. -/
theorem witness_SetFrameOutcome :
    opened.frameActive = true ∧ base.frameActive = false ∧ ((2 : BitVec 4) ≠ 1 ∧ (2 : BitVec 4) ≠ 3) ∧
    ¬ (1 ≤ (65 : BitVec 16).toNat ∧ (65 : BitVec 16).toNat ≤ base.params.maxFrameW) ∧
    ¬ 1 ≤ (0 : BitVec 16).toNat ∧
    (1 ≤ (64 : BitVec 16).toNat ∧ (64 : BitVec 16).toNat ≤ base.params.maxFrameW ∧
      (64 : BitVec 16).toNat ≤ base.params.maxFrameH) := by decide +kernel

/-- The frame open; factor 5; factor 0; table 2; the last legal values. -/
theorem witness_SetCompOutcome :
    opened.frameActive = true ∧ base.frameActive = false ∧ ¬ (5 : BitVec 4).toNat ≤ 4 ∧ ¬ 1 ≤ (0 : BitVec 4).toNat ∧
    ((2 : BitVec 4) ≠ 0 ∧ (2 : BitVec 4) ≠ 1) ∧ ((4 : BitVec 4).toNat ≤ 4 ∧ (2 : BitVec 2) ≠ 3) := by decide +kernel

/-- The frame open; nothing configured; the third component missing; its table missing; all there. -/
theorem witness_StartOutcome :
    opened.frameActive = true ∧ (base.frameActive = false ∧ base.cfgValid = false) ∧
    (colour.frameActive = false ∧ colour.cfgValid = true ∧ 2 < colour.ncomp.toNat ∧ colour.compv 2 = false) ∧
    (let s := colour.setComp 2 ⟨1, 4, 1⟩
     s.frameActive = false ∧ (∀ c, c < s.ncomp.toNat → s.compv c = true) ∧ s.qtv (s.comp 2).tq.toNat = false) ∧
    (let s := colour.setComp 2 ⟨1, 4, 0⟩
     s.frameActive = false ∧ s.cfgValid = true ∧ s.ncomp = 3 ∧
      (∀ c, c < s.ncomp.toNat → s.compv c = true ∧ s.qtv (s.comp c).tq.toNat = true ∧
        1 ≤ (s.comp c).hs.toNat ∧ (s.comp c).hs.toNat ≤ 4 ∧ 1 ≤ (s.comp c).vs.toNat ∧ (s.comp c).vs.toNat ≤ 4)) := by
  decide +kernel

theorem witness_GridCoversFrame :
    (mcuCount 65535 1, mcuCount 65535 4, mcuCount 1 4, mcuCount 8 1, mcuCount 9 1) = (8192, 2048, 1, 1, 2) := by decide

theorem witness_BlockPositionFormula :
    0 < blocksPerMcu [⟨2, 2, 0⟩, ⟨1, 1, 0⟩, ⟨1, 1, 0⟩] ∧ 0 < 1 ∧
    blockPosition [⟨2, 2, 0⟩, ⟨1, 1, 0⟩, ⟨1, 1, 0⟩] 1 5 = ⟨2, 0, 0⟩ := by decide

/-- The last block of a frame of 2 × 2 MCUs, and the position it has. -/
theorem witness_BlockPositionBijection :
    (∀ k ∈ [CompCfg.mk 1 1 0, ⟨2, 1, 0⟩, ⟨1, 1, 0⟩], 1 ≤ k.hs.toNat ∧ 1 ≤ k.vs.toNat) ∧
    15 < 2 * 2 * blocksPerMcu [⟨1, 1, 0⟩, ⟨2, 1, 0⟩, ⟨1, 1, 0⟩] ∧
    ([CompCfg.mk 1 1 0, ⟨2, 1, 0⟩, ⟨1, 1, 0⟩][2]? = some ⟨1, 1, 0⟩ ∧ 1 < 2 * 1) := by decide

theorem witness_ZigzagMapIsBijection : (zz 63, zzInv 63, zz 1, zzInv 8) = (63, 63, 1, 2) := by decide

/-- The frame open; precision 2; table 2; the last entry of each precision illegal; the greatest legal ones. -/
theorem witness_LoadQtOutcome :
    opened.frameActive = true ∧ base.frameActive = false ∧ ((2 : BitVec 4) ≠ 0 ∧ (2 : BitVec 4) ≠ 1) ∧
    (let e := sparseWords [(63, 256)]
     ¬ e[63].toNat < 256 ∧ ∀ k, (hk : k < 63) → e[k].toNat < 256) ∧
    (let e := sparseWords [(63, 65536)]
     ¬ e[63].toNat < 65536 ∧ ∀ k, (hk : k < 63) → e[k].toNat < 65536) ∧
    (∀ k, (hk : k < 64) → (flat 255)[k].toNat < 256) ∧ (∀ k, (hk : k < 64) → (flat 65535)[k].toNat < 65536) := by
  decide +kernel

theorem witness_QtWindowRoundTrip :
    base.err = false ∧ leaves (.loadQt 1 1 (flat 65535)) base (fun t => (t.err, t.busy)) = some (false, false) := by
  decide +kernel

/-- No frame; a complete frame; the last coefficient illegal; both extreme coefficients, on a table that is loaded. -/
theorem witness_BlockOutcome :
    base.frameActive = false ∧ (complete.frameActive = true ∧ complete.blktotal.toNat ≤ complete.blkcnt.toNat) ∧
    (opened.frameActive = true ∧ opened.blkcnt.toNat < opened.blktotal.toNat) ∧
    (coefCheck (sparseWords [(63, 0x8000)])[63] ≠ none ∧
      ∀ k, (hk : k < 63) → (sparseWords [(63, 0x8000)])[k] = BitVec.ofInt 32 0) ∧
    (let e := sparseWords [(0, 0xFFFF8000), (63, 0x7FFF)]
     ∀ k, (hk : k < 64) → -32768 ≤ coefValue e[k] ∧ coefValue e[k] ≤ 32767 ∧ e[k] = BitVec.ofInt 32 (coefValue e[k])) ∧
    (∀ i, i < 64 →
      opened.qt.read (qtKey (opened.comp (opened.blockPos opened.blkcnt.toNat).c).tq.toNat i) = some 1) := by
  decide +kernel

theorem witness_DequantizationIsExact :
    (opened.qt.read (qtKey 0 (zz 63)) = some 1 ∧ (opened.qt.read (qtKey 1 (zz 0))) = none) ∧
    (dequantize opened 0 (sparseWords [(63, 0xFFFF8000)]).toList).getD (zz 63) 0 = -32768 := by decide +kernel

/-- A block of the greatest magnitude in every place. -/
theorem witness_TransformWidths : ∀ x ∈ List.replicate 64 (-2147450880 : Int), |x| ≤ 2147450880 := by
  intro x hx
  rw [List.eq_of_mem_replicate hx]
  norm_num

theorem witness_TransformConstantsAreNearest : (7 < 8 ∧ 0 < 8) ∧ (kConst 7 0, kConst 0 0, kConst 7 7) = (799, 2896, -799) := by
  decide

/-- No frame; a frame with a block missing; a complete grayscale frame and its last pixel; a complete colour frame (its
three planes are read at the block positions that have been written). -/
theorem witness_FinishOutcome :
    base.frameActive = false ∧ opened.blkcnt ≠ opened.blktotal ∧
    (complete.frameActive = true ∧ complete.blkcnt = complete.blktotal ∧ complete.ncomp = 1 ∧ 7 < complete.frameW.toNat ∧
      complete.plane.read (planeKey 0 (7 * (complete.comp 0).vs.toNat / complete.vmax.toNat)
        (7 * (complete.comp 0).hs.toNat / complete.hmax.toNat)) = some 138) ∧
    (let s := (commitStart (((commitSetFrame 3 8 8 (configured 1)).setComp 1 ⟨1, 1, 0⟩).setComp 2 ⟨1, 1, 0⟩))
     let t := commitBlock (dcWords 0) (commitBlock (dcWords 0) (commitBlock (dcWords 80) s))
     t.frameActive = true ∧ t.blkcnt = t.blktotal ∧ t.ncomp = 3 ∧
      (List.range 3).map (fun c => t.plane.read (planeKey c (7 * (t.comp c).vs.toNat / t.vmax.toNat)
        (7 * (t.comp c).hs.toNat / t.hmax.toNat))) = [some 138, some 128, some 128]) := by
  decide +kernel

theorem witness_UpsamplingReadsInsidePlane :
    (1 ≤ 3 ∧ 1 ≤ 4 ∧ 63 < 64 ∧ 64 ≤ 2 * 4 * 8) ∧ upsampleIndex 63 3 4 = 47 ∧ upsampleIndex 63 1 (1 * 4) = 15 := by decide

/-- One command of each kind in a state where it raises SEQUENCE, and a frame in which each is legal. -/
theorem witness_SequenceLegality :
    ((Instr.setFrame 1 8 8) :: [.setComp 0 1 1 0, .loadQt 0 0 (flat 1), .start]).map
      (fun i => leaves i opened (fun t => t.errInfo.cause)) = List.replicate 4 (some .sequence) ∧
    [Instr.block (flat 0), .finish].map (fun i => leaves i base (fun t => t.errInfo.cause)) =
      List.replicate 2 (some .sequence) ∧
    leaves (.block (flat 0)) opened (fun t => t.err) = some false ∧
    leaves .finish complete (fun t => t.err) = some false ∧ opened.err = false ∧ complete.err = false := by
  decide +kernel

/-- A command that fails; and the halted state, which meets the port's rules. -/
theorem witness_ErrorEntryAndHalt :
    (base.err = false ∧ leaves .start base (fun t => t.err) = some true) ∧
    (halted.PortOk ∧ halted.ps = .halted) ∧ halted.agenda = [] ∧ (0x7FFFFFFF : Word).getLsbD 31 = false ∧
    (0xFFFFFFFC : Word).toNat % 4 = 0 := by decide +kernel

theorem witness_OnlyResetEndsTheErrorState :
    halted.ps = .halted ∧ (after (step { halted with agenda := [.engine] })).isSome = true ∧
    (Turn.access .host (.write 0x08 32 0x7FFFFFFF)).resets = false ∧
    (after (step { halted with agenda := [.access .host (.write 0x08 32 0x7FFFFFFF)] })).isSome = true := by
  decide +kernel

/-- A command of every kind that commits, and one that fails. -/
theorem witness_CommandFrames :
    ((after (exec .nop base)).isSome && (after (exec (.setFrame 1 8 8) base)).isSome &&
      (after (exec (.setComp 0 1 1 0) base)).isSome && (after (exec (.loadQt 0 0 (flat 1)) base)).isSome &&
      (after (exec .start (configured 1))).isSome && (after (exec (.block (flat 0)) opened)).isSome &&
      (after (exec .finish complete)).isSome) = true ∧
    base.err = false ∧ leaves .start base (fun t => t.err) = some true := by decide +kernel

/-- A `BLOCK`'s last word inside a frame. -/
theorem witness_FrameIsFrozen :
    let s := { opened with ps := .payload .block 0x05000000 63, fifo := [0],
                           stg := Memory.write [] 1 (List.replicate 63 0) }
    s.frameActive = true ∧ (after (step s)).map (fun t => (t.frameActive, t.blkcnt)) = some (true, 1) := by
  decide +kernel

/-- A `START` inside a frame. -/
theorem witness_NoPartialImage :
    let s := { opened with fifo := [0x04000000] }
    (s.FrameOk ∧ s.frameActive = true ∧ s.err = false) ∧ (after (step s)).map (fun t => t.err) = some true := by
  decide +kernel

/-- The lowest and the highest word with bit 31 set; a FIFO, a command and a frame are then lost. -/
theorem witness_SoftResetOutcome :
    [(0x80000000 : Word), 0xFFFFFFFF].all (fun w =>
      (withAccess (.write 0x08 32 w) opened).agenda == .access .host (.write 0x08 32 w) :: [] &&
      freeBus (withAccess (.write 0x08 32 w) opened) && w.getLsbD 31) = true ∧
    { opened with agenda := [.powerOn] }.agenda = .powerOn :: [] := by decide +kernel

theorem witness_CtrlAndStatusWrites :
    freeBus finished = true ∧ (0x7FFFFFFF : Word).getLsbD 31 = false ∧
    (withAccess (.write 0x08 32 0x7FFFFFFF) finished).agenda = .access .host (.write 0x08 32 0x7FFFFFFF) :: [] ∧
    (withAccess (.write 0x0C 32 2) finished).agenda = .access .host (.write 0x0C 32 2) :: [] := by decide +kernel

/-- One word short of full; full, the second master writing; halted. -/
theorem witness_CommandPortWrite :
    (let s := { base with fifo := List.replicate 15 0 }
     s.err = false ∧ s.fifo.length < s.params.fifoDepth ∧ freeBus s = true) ∧
    (holds .second holding = false ∧ holding.err = false ∧ holding.params.fifoDepth ≤ holding.fifo.length) ∧
    (halted.err = true ∧ freeBus halted = true) := by decide +kernel

theorem witness_HeldWriteCompletes :
    holding.PortOk ∧ holding.held = [⟨.host, 0x04000000⟩] ∧ holding.agenda = [] := by decide +kernel

theorem witness_HostAccessesInOrder :
    let s := withAccess (.read 0x0C 32) holding
    s.PortOk ∧ holds .host s = true ∧ s.agenda = .access .host (.read 0x0C 32) :: [] := by decide +kernel

theorem witness_SideEffectsOfAccesses :
    (freeBus base = true ∧ (0x3C : Word).toNat % 4 = 0) ∧
    ((0x3C : Word) ≠ 0x08 ∧ (0x3C : Word) ≠ 0x0C ∧ (0x3C : Word) ≠ 0x14) ∧
    (base.err = false ∧ base.fifo.length < base.params.fifoDepth) ∧ (0x80000000 : Word).getLsbD 31 = true ∧
    (0x00000002 : Word).getLsbD 1 = true := by decide +kernel

/-- The first and last offsets of each reserved range; `OUTM_SIZE` of the vectors' instance is 12288. -/
theorem witness_ReservedOffsets :
    freeBus base = true ∧ (0x01000000 + outmSize base.params = 0x01003000) ∧
    [(0x40 : Word), 0xFC, 0x500, 0x00FFFFFC, 0x01003000, 0xFFFFFFFC].all (fun off => decide
      (off.toNat % 4 = 0 ∧ ((0x40 ≤ off.toNat ∧ off.toNat < 0x100) ∨ (0x500 ≤ off.toNat ∧ off.toNat < 0x01000000) ∨
        0x01000000 + outmSize base.params ≤ off.toNat))) = true := by decide +kernel

theorem witness_IllegalAccessRefused :
    freeBus base = true ∧ (32 = 32 ∧ (0xFFFFFFFC : Word).toNat % 4 = 0) ∧ ¬ (8 = 32) ∧ ¬ (0x02 : Word).toNat % 4 = 0 := by
  decide +kernel

theorem witness_RegisterWords :
    base.params.Legal ∧ base.fifo.length ≤ base.params.fifoDepth ∧ holding.fifo.length = holding.params.fifoDepth := by
  decide +kernel

/-- The engine idle after P1; table 0 loaded and table 1 not; the last entry, and the last word of the image. -/
theorem witness_WindowWords :
    (finished.busy = false ∧ finished.qtv 0 = true ∧ finished.qtv 1 = false) ∧
    (finished.qt.read (qtKey 0 63) = some 1 ∧ finished.lastdq.read 63 = some 0 ∧ finished.lastblk.read 63 = some 138) ∧
    (base.busy = false ∧ base.lastdq.read 63 = none ∧ base.lastblk.read 63 = none ∧ base.outm.read 12287 = none ∧
      12284 < outmSize base.params) ∧
    (188 % 4 = 0 ∧ 188 < outmSize finished.params ∧ finished.outm.read 188 = some 138 ∧ finished.outm.read 191 = some 138) ∧
    (freeBus finished = true ∧ [(0x100 : Word), 0x4FC, 0x01000000, 0x01002FFC].all (fun off => decide
      (off.toNat % 4 = 0 ∧ ((0x100 ≤ off.toNat ∧ off.toNat < 0x500) ∨
        (0x01000000 ≤ off.toNat ∧ off.toNat < 0x01000000 + outmSize finished.params)))) = true) := by decide +kernel

theorem witness_BusyWindowIsFree :
    let s := withAccess (.read 0x100 32) { base with fifo := [0] }
    freeBus s = true ∧ (0x100 : Word).toNat % 4 = 0 ∧ s.busy = true ∧
      s.agenda = .access .host (.read 0x100 32) :: [] := by decide +kernel

/-- Inside a frame, a `BLOCK`'s header next. -/
def openedNext : State := { opened with fifo := [0x05000000] }

/-- A state inside a frame meets every invariant, and steps: the witness for the four statements about invariants, and
for the clauses of `NoCommandReadsBeforeWriting` about `BLOCK` and the staged words. -/
theorem witness_invariants : openedNext.MemoryOk ∧ openedNext.PortOk ∧ openedNext.ConfigOk ∧ openedNext.FrameOk :=
  ⟨by decide +kernel, by decide +kernel, by decide +kernel, by decide +kernel⟩

theorem witness_invariants_step :
    blockCheck openedNext = none ∧
    (after (step openedNext)).map (fun t => t.ps) = some (.payload .block 0x05000000 0) := by decide +kernel

/-- Inside a frame, a `BLOCK`'s header and its first payload word taken. -/
theorem witness_staged_word :
    { opened with ps := .payload .block 0x05000000 1, stg := [(1, 0)] }.PortOk ∧ 1 ≤ 1 :=
  ⟨by decide +kernel, by decide⟩

theorem witness_ResetStateTable : ∃ r : State, resetEngine halted = resetEngine r := ⟨halted, rfl⟩

/-- A complete frame. -/
theorem witness_NoCommandReadsBeforeWriting :
    complete.Inv ∧ finishCheck complete = none ∧ 0 < complete.ncomp.toNat ∧ 7 < complete.frameW.toNat :=
  ⟨⟨by decide +kernel, by decide +kernel, by decide +kernel, by decide +kernel⟩, by decide +kernel, by decide +kernel,
    by decide +kernel⟩

end Sys2Proof.Tests
end

section
/-! SUPPORT. What the four invariants rest on, of the command port: which fields a commit leaves alone, and the port's
rules between an engine step and the release of a held write. -/

namespace Sys2Proof.Machine

/-! ### What a commit leaves to the port -/

@[simp] theorem commitOf_params (i : Instr) (s : State) : (commitOf i s).params = s.params := by
  cases i <;> simp [commitOf, commitLoadQt, commitBlock]

@[simp] theorem commitOf_ps (i : Instr) (s : State) : (commitOf i s).ps = s.ps := by
  cases i <;> simp [commitOf, commitLoadQt, commitBlock]

@[simp] theorem commitOf_fifo (i : Instr) (s : State) : (commitOf i s).fifo = s.fifo := by
  cases i <;> simp [commitOf, commitLoadQt, commitBlock]

@[simp] theorem commitOf_stg (i : Instr) (s : State) : (commitOf i s).stg = s.stg := by
  cases i <;> simp [commitOf, commitLoadQt, commitBlock]

@[simp] theorem commitOf_held (i : Instr) (s : State) : (commitOf i s).held = s.held := by
  cases i <;> simp [commitOf, commitLoadQt, commitBlock]

@[simp] theorem commitOf_errInfo (i : Instr) (s : State) : (commitOf i s).errInfo = s.errInfo := by
  cases i <;> simp [commitOf, commitLoadQt, commitBlock]

/-! ### Header checks and accepted payloads -/

theorem opcode_len_le (op : Opcode) : op.len ≤ 65 := by cases op <;> decide

/-- Header checks do not look at the port: the words queued, staged, held or counted. -/
@[simp] theorem headerCheck_popWord (op : Opcode) (hdr : Word) (rest : List Word) (s : State) :
    headerCheck op hdr (popWord rest s) = headerCheck op hdr s := by cases op <;> rfl

theorem payloadOk_payload {s : State} {op : Opcode} {hdr : Word} {n : Nat} (hp : s.ps = .payload op hdr n) :
    payloadOk s = true ↔ decodeHeader hdr = .ok op ∧ n < op.len - 1 ∧ headerCheck op hdr s = none ∧
      stagedOk op hdr n s = true := by
  simp [payloadOk, hp, and_assoc]

theorem payloadOk_idle {s : State} (hp : s.ps = .idle) : payloadOk s = true := by simp [payloadOk, hp]

theorem payloadOk_halted {s : State} (hp : s.ps = .halted) : payloadOk s = true := by simp [payloadOk, hp]

/-- A staged word that passes its check lengthens the accepted payload by one. -/
theorem stagedOk_succ {op : Opcode} {hdr w : Word} {n : Nat} {s t : State} (h : stagedOk op hdr n s = true)
    (hw : payloadCheck op hdr w s.params = none) (hp : t.params = s.params) (hs : t.stg = s.stg.write (n + 1) [w]) :
    stagedOk op hdr (n + 1) t = true := by
  simp only [stagedOk, List.all_eq_true, List.mem_range, hs, hp] at h ⊢
  intro j hj
  by_cases hjn : j = n
  · subst hjn
    simp [Memory.read_write, hw]
  · rw [Memory.read_write_outside _ _ (by omega)]
    exact h j (by omega)

/-! ### The port's rules before a held write is released -/

/-- The port's rules as an engine step leaves them, its word taken and no held write released yet: there is room for one
word where a write is held, and an error has not completed the held writes yet. -/
structure State.PortReleasable (s : State) : Prop where
  legal : s.params.Legal
  depth : s.fifo.length ≤ s.params.fifoDepth
  errHalted : s.err = true ↔ s.ps = .halted
  halted : s.err = true → s.fifo = [] ∧ s.frameActive = false ∧ s.errInfo.cause ≠ .none
  noError : s.err = false → s.errInfo = ⟨.none, 0, 0⟩
  room : s.err = false → s.held ≠ [] → s.fifo.length + 1 = s.params.fifoDepth
  masters : (s.held.map HeldWrite.master).Nodup
  staged : s.stg.keysIn 1 65 = true
  payload : payloadOk s = true

namespace State.PortReleasable

/-- The release of a held write restores the port's rules. -/
theorem portOk_releaseHeld {s : State} (h : s.PortReleasable) : (releaseHeld s).PortOk := by
  obtain ⟨hlegal, hdepth, herr, hhalt, hnone, hroom, hmasters, hstg, hpay⟩ := h
  rcases releaseHeld_cases s with ⟨hh, hr⟩ | ⟨-, he, hr⟩ | ⟨w, ws, hh, he, hl, hr⟩ | ⟨hh, he, hl, -⟩
  · rw [hr]
    refine ⟨hlegal, hdepth, herr, fun he => ?_, hnone, by simp [hh], hmasters, hstg, hpay⟩
    obtain ⟨hf, ha, hc⟩ := hhalt he
    exact ⟨hf, hh, ha, hc⟩
  · rw [hr]
    refine ⟨hlegal, hdepth, herr, fun _ => ?_, hnone, by simp, List.nodup_nil, hstg, hpay⟩
    obtain ⟨hf, ha, hc⟩ := hhalt he
    exact ⟨hf, rfl, ha, hc⟩
  · rw [hr]
    have hlen : s.fifo.length + 1 = s.params.fifoDepth := hroom he (by simp [hh])
    rw [hh, List.map_cons, List.nodup_cons] at hmasters
    exact ⟨hlegal, by simp [hlen], herr, by simp [he], hnone, by simp [hlen], hmasters.2, hstg, hpay⟩
  · have hlen := hroom he hh
    omega

/-- An error keeps the rules. -/
theorem raiseError {s : State} (h : s.PortReleasable) {c : Cause} (hc : c ≠ .none) (op : BitVec 8) (j : Nat) :
    (raiseError c op j s).PortReleasable where
  legal := h.legal
  depth := by simp
  errHalted := by simp
  halted := by simp [hc]
  noError := by simp
  room := by simp
  masters := h.masters
  staged := h.staged
  payload := payloadOk_halted rfl

/-- The commit of a command keeps the rules. -/
theorem commitOf {s : State} (h : s.PortReleasable) (hp : s.ps = .idle) (i : Instr) :
    (commitOf i s).PortReleasable := by
  have he : s.err = false := by simpa [hp] using h.errHalted
  exact {
    legal := by simpa using h.legal
    depth := by simpa using h.depth
    errHalted := by simpa using h.errHalted
    halted := by simp [he]
    noError := by simpa using h.noError
    room := by simpa using h.room
    masters := by simpa using h.masters
    staged := by simpa using h.staged
    payload := payloadOk_idle (by simpa using hp) }

/-- Taking the last payload word keeps the rules. -/
theorem commandComplete_stage {s : State} (h : s.PortReleasable) (he : s.err = false) {j : Nat} (hj : 1 ≤ j)
    (hj' : j ≤ 64) (w : Word) : (commandComplete (stage j w s)).PortReleasable where
  legal := h.legal
  depth := h.depth
  errHalted := by simp [he]
  halted := by simp [he]
  noError := h.noError
  room := h.room
  masters := h.masters
  staged := Memory.keysIn_write h.staged j [w] hj (by simpa using Nat.lt_succ_of_le hj')
  payload := payloadOk_idle rfl

end State.PortReleasable

/-- Taking a word leaves room for one where a write is held. -/
theorem State.PortOk.releasable_popWord {s : State} (h : s.PortOk) {w : Word} {rest : List Word}
    (hf : s.fifo = w :: rest) : (popWord rest s).PortReleasable ∧ s.err = false := by
  obtain ⟨hlegal, hdepth, herr, hhalt, hnone, hfull, hmasters, hstg, hpay⟩ := h
  have he : s.err = false := by
    by_contra hne
    have hnil := (hhalt (by simpa using hne)).1
    simp [hf] at hnil
  have hlen : rest.length + 1 = s.fifo.length := by simp [hf]
  refine ⟨⟨hlegal, ?_, herr, by simp [he], hnone, fun _ hh => ?_, hmasters, hstg, ?_⟩, he⟩
  · show rest.length ≤ s.params.fifoDepth
    omega
  · show rest.length + 1 = s.params.fifoDepth
    rw [hlen, hfull hh]
  · rcases hp : s.ps with _ | ⟨op, hdr, n⟩ | _
    · exact payloadOk_idle hp
    · rw [payloadOk_payload hp] at hpay
      rw [payloadOk_payload (s := popWord rest s) hp, headerCheck_popWord]
      exact hpay
    · exact payloadOk_halted hp

end Sys2Proof.Machine
end

section
/-! PROOFS. Every step keeps the port's rules (spec/10_state.md R34, R35, R41, R47, spec/20_memory.md R93, R96). -/

namespace Sys2Proof.Machine

/-- What an engine step leaves keeps the port's rules, the held writes aside. -/
theorem EngineLeaves.portReleasable {s u : State} (hu : EngineLeaves s u) (h : s.PortOk) : u.PortReleasable := by
  have hpay : payloadOk s = true := by
    obtain ⟨-, -, -, -, -, -, -, -, hpay⟩ := h
    exact hpay
  cases hu with
  | error w rest v c op j hf hp hc hv =>
    obtain ⟨hpop, he⟩ := h.releasable_popWord hf
    rcases hv with rfl | ⟨op', hdr, n, -, hn, rfl⟩
    · exact hpop.raiseError hc op j
    · have hlen := opcode_len_le op'
      exact (hpop.commandComplete_stage he (by omega) (by omega) w).raiseError hc op j
  | header w rest op hf hp hd hl hc =>
    obtain ⟨hpop, he⟩ := h.releasable_popWord hf
    exact {
      hpop with
      errHalted := by simp [he]
      payload := by
        rw [payloadOk_payload rfl]
        have h1 : 1 ≤ op.len := by cases op <;> decide
        exact ⟨hd, by omega, by cases op <;> exact hc, rfl⟩ }
  | staged w rest op hdr n hf hp hc hl =>
    obtain ⟨hpop, he⟩ := h.releasable_popWord hf
    obtain ⟨hd, hn, hhead, hst⟩ := (payloadOk_payload hp).1 hpay
    have hlen := opcode_len_le op
    exact {
      hpop with
      errHalted := by simp [he]
      staged := Memory.keysIn_write hpop.staged (n + 1) [w] (by omega) (by simp; omega)
      payload := by
        rw [payloadOk_payload rfl]
        exact ⟨hd, by omega, by cases op <;> exact hhead, stagedOk_succ hst hc rfl rfl⟩ }
  | oneWord w rest op hf hp hd hl hc => exact (h.releasable_popWord hf).1.commitOf hp _
  | lastWord w rest op hdr n v hf hp hw hl hv hc =>
    obtain ⟨hpop, he⟩ := h.releasable_popWord hf
    have hlen := opcode_len_le op
    subst hv
    exact (hpop.commandComplete_stage he (by omega) (by omega) w).commitOf rfl _

/-- After a reset the port's rules hold, whatever the state was. -/
theorem portOk_resetEngine {s : State} (h : s.params.Legal) : (resetEngine s).PortOk :=
  ⟨h, Nat.zero_le _, by simp [State.reset], by simp [State.reset], fun _ => rfl, by simp [State.reset],
    List.nodup_nil, rfl, rfl⟩

/-- A master without a held write may have its word appended or held. -/
theorem portOk_hostWrite {s : State} (h : s.PortOk) {m : Master} (hm : holds m s = false) (off : Nat) (w : Word) :
    (hostWrite m off w s).PortOk := by
  obtain ⟨hlegal, hdepth, herr, hhalt, hnone, hfull, hmasters, hstg, hpay⟩ := id h
  rcases hostWrite_cases m off w s with hw | hw | hw | ⟨he, hl, hw⟩ | ⟨he, hl, hw⟩ | hw <;> rw [hw]
  · exact portOk_resetEngine hlegal
  · exact h
  · exact h
  · have hnil : s.held = [] := by
      by_contra hne
      have := hfull hne
      omega
    refine ⟨hlegal, ?_, herr, by simp [he], hnone, by simp [hnil], hmasters, hstg, hpay⟩
    simpa using hl
  · refine ⟨hlegal, hdepth, herr, by simp [he], hnone, fun _ => Nat.le_antisymm hdepth hl, ?_, hstg, hpay⟩
    have hnew : ∀ x ∈ s.held, x.master ≠ m := by simpa [holds] using hm
    rw [List.map_append, List.nodup_append]
    refine ⟨hmasters, by simp, fun a ha b hb => ?_⟩
    obtain ⟨x, hx, rfl⟩ := List.mem_map.1 ha
    simp only [List.map_cons, List.map_nil, List.mem_singleton] at hb
    exact hb ▸ hnew x hx
  · exact h

/-- Settles O57: what an engine step leaves keeps the rules up to the release of a held write, and the release restores
them; the host's accesses and a reset keep them directly. -/
theorem stepKeepsPortRules : Obligations.StepKeepsPortRules := by
  intro s t h hstep
  rcases step_cases hstep with ⟨ts, u, -, hu, rfl⟩ | ⟨ts, -, -, rfl⟩ | ⟨m, off, ts, -, -, -, rfl⟩ |
    ⟨m, off, w, ts, -, -, hm, rfl⟩ | ⟨ts, -, rfl⟩
  · exact (hu.portReleasable h).portOk_releaseHeld
  · exact h
  · exact h
  · exact portOk_hostWrite (s := { s with agenda := ts }) h hm off.toNat w
  · exact portOk_resetEngine (s := { s with agenda := ts }) h.1

end Sys2Proof.Machine
end

section
/-! SUPPORT. The grid covers the frame, and the block positions of a frame are those of its planes
(spec/41_frame.md R171 to R178). -/

namespace Sys2Proof.Machine

/-! ### The grid (R171) -/

/-- The MCUs along an axis cover it, and exceed it by less than one MCU. -/
theorem mcuCount_covers {size factor : Nat} (hf : 1 ≤ factor) (hs : 1 ≤ size) :
    size ≤ mcuCount size factor * factor * 8 ∧ mcuCount size factor * factor * 8 < size + factor * 8 := by
  obtain ⟨hunits, hunits'⟩ := cdiv_bounds hf hs
  have hpos : 1 ≤ cdiv size factor := by
    by_contra h
    simp [Nat.lt_one_iff.1 (Nat.not_le.1 h)] at hunits
    omega
  obtain ⟨hmcus, hmcus'⟩ := cdiv_bounds (f := 8) (by decide) hpos
  have hcomm : mcuCount size factor * factor * 8 = cdiv (cdiv size factor) 8 * 8 * factor := by
    rw [mcuCount, Nat.mul_right_comm]
  have hlo := Nat.mul_le_mul_right factor hmcus
  have hhi := Nat.mul_le_mul_right factor (Nat.le_of_lt_succ hmcus')
  rw [hcomm]
  constructor
  · omega
  · have hsplit : (cdiv size factor + 7) * factor = cdiv size factor * factor + 7 * factor := Nat.add_mul ..
    omega

theorem cdiv_le_self {n f : Nat} (hf : 1 ≤ f) : cdiv n f ≤ n := by
  rcases Nat.eq_zero_or_pos n with rfl | hn
  · simp [cdiv, Nat.div_eq_of_lt (Nat.sub_lt hf Nat.one_pos)]
  · have h := (cdiv_bounds hf hn).2
    by_contra hlt
    have := Nat.mul_le_mul_right f (Nat.not_le.1 hlt)
    rw [Nat.succ_mul] at this
    have := Nat.le_mul_of_pos_right n hf
    omega

/-- A 16-bit axis has at most 8192 MCUs. -/
theorem mcuCount_le {size factor : Nat} (hs : size ≤ 65535) (hf : 1 ≤ factor) : mcuCount size factor ≤ 8192 := by
  have h := cdiv_le_self (n := size) hf
  show (cdiv size factor + 8 - 1) / 8 ≤ 8192
  omega

/-! ### The greatest factors (R171) and the blocks of an MCU (R172) -/

theorem le_maxHs {comps : List CompCfg} {k : CompCfg} (h : k ∈ comps) : k.hs.toNat ≤ maxHs comps := by
  induction comps with
  | nil => simp at h
  | cons a comps ih =>
    rw [maxHs_cons]
    rcases List.mem_cons.1 h with rfl | h
    · exact le_max_left ..
    · exact (ih h).trans (le_max_right ..)

theorem le_maxVs {comps : List CompCfg} {k : CompCfg} (h : k ∈ comps) : k.vs.toNat ≤ maxVs comps := by
  induction comps with
  | nil => simp at h
  | cons a comps ih =>
    rw [maxVs_cons]
    rcases List.mem_cons.1 h with rfl | h
    · exact le_max_left ..
    · exact (ih h).trans (le_max_right ..)

theorem maxHs_le {comps : List CompCfg} {b : Nat} (h : ∀ k ∈ comps, k.hs.toNat ≤ b) : maxHs comps ≤ b := by
  induction comps with
  | nil => exact Nat.zero_le b
  | cons k comps ih =>
    rw [maxHs_cons]
    exact max_le (h k (by simp)) (ih fun a ha => h a (by simp [ha]))

theorem maxVs_le {comps : List CompCfg} {b : Nat} (h : ∀ k ∈ comps, k.vs.toNat ≤ b) : maxVs comps ≤ b := by
  induction comps with
  | nil => exact Nat.zero_le b
  | cons k comps ih =>
    rw [maxVs_cons]
    exact max_le (h k (by simp)) (ih fun a ha => h a (by simp [ha]))

/-- With factors of at most 4, each component has at most 16 blocks in an MCU. -/
theorem blocksPerMcu_le {comps : List CompCfg} (h : ∀ k ∈ comps, k.hs.toNat ≤ 4 ∧ k.vs.toNat ≤ 4) :
    blocksPerMcu comps ≤ 16 * comps.length := by
  induction comps with
  | nil => exact Nat.zero_le _
  | cons k comps ih =>
    have hk := h k (by simp)
    have hblocks : blocksOf k ≤ 4 * 4 := Nat.mul_le_mul hk.1 hk.2
    have hrest := ih fun a ha => h a (by simp [ha])
    rw [blocksPerMcu_cons, List.length_cons]
    omega

/-! ### Block positions (R177, R178) -/

/-- The position of a block whose component and place in the MCU are known. -/
theorem blockPosition_eq {comps : List CompCfg} {mcux n c i : Nat} {k : CompCfg}
    (hf : findComponent comps 0 (n % blocksPerMcu comps) = (c, i)) (hk : comps[c]? = some k) :
    blockPosition comps mcux n =
      ⟨c, n / blocksPerMcu comps / mcux * k.vs.toNat + i / k.hs.toNat,
        n / blocksPerMcu comps % mcux * k.hs.toNat + i % k.hs.toNat⟩ := by
  simp only [blockPosition, ← Nat.mod_eq_sub_div_mul, hf, List.getD, hk, Option.getD_some]

/-- Row `a` of `b` cells, and a cell in it, of `n` rows. -/
theorem mul_add_lt_mul {a n b r : Nat} (ha : a < n) (hr : r < b) : a * b + r < n * b :=
  calc a * b + r < (a + 1) * b := by rw [Nat.succ_mul]; omega
    _ ≤ n * b := Nat.mul_le_mul_right b ha

/-- Every block of the grid has its place inside the plane of a component in use. -/
theorem blockPosition_inside {comps : List CompCfg} {mcux mcuy n : Nat} (h : n < mcux * mcuy * blocksPerMcu comps) :
    ∃ k, comps[(blockPosition comps mcux n).c]? = some k ∧
      (blockPosition comps mcux n).br < mcuy * k.vs.toNat ∧ (blockPosition comps mcux n).bc < mcux * k.hs.toNat := by
  have hbpm : 0 < blocksPerMcu comps := Nat.pos_of_lt_mul_left h
  obtain ⟨k, c, hc, hk, -, hi⟩ := findComponent_spec comps 0 _ (Nat.mod_lt n hbpm)
  rw [Nat.zero_add] at hc
  rw [blockPosition_eq (Prod.ext hc rfl) hk]
  have hm : n / blocksPerMcu comps < mcux * mcuy := Nat.div_lt_of_lt_mul (by rwa [Nat.mul_comm])
  have hmcux : 0 < mcux := Nat.pos_of_lt_mul_right hm
  have hhs : 0 < k.hs.toNat := Nat.pos_of_lt_mul_right hi
  exact ⟨k, hk, mul_add_lt_mul (Nat.div_lt_of_lt_mul hm) (Nat.div_lt_of_lt_mul hi),
    mul_add_lt_mul (Nat.mod_lt _ hmcux) (Nat.mod_lt _ hhs)⟩

/-- Every place in the plane of a component in use is that of a block of the grid. -/
theorem exists_blockPosition {comps : List CompCfg} {mcux mcuy c br bc : Nat} {k : CompCfg} (hk : comps[c]? = some k)
    (hbr : br < mcuy * k.vs.toNat) (hbc : bc < mcux * k.hs.toNat) :
    ∃ n, n < mcux * mcuy * blocksPerMcu comps ∧ blockPosition comps mcux n = ⟨c, br, bc⟩ := by
  have hvs : 0 < k.vs.toNat := Nat.pos_of_lt_mul_left hbr
  have hhs : 0 < k.hs.toNat := Nat.pos_of_lt_mul_left hbc
  have hmcux : 0 < mcux := Nat.pos_of_lt_mul_right hbc
  -- the MCU, and the block's place among its component's blocks of that MCU
  generalize hm : br / k.vs.toNat * mcux + bc / k.hs.toNat = m
  generalize hi : br % k.vs.toNat * k.hs.toNat + bc % k.hs.toNat = i
  have hmx : bc / k.hs.toNat < mcux := Nat.div_lt_of_lt_mul (by rwa [Nat.mul_comm])
  have hmy : br / k.vs.toNat < mcuy := Nat.div_lt_of_lt_mul (by rwa [Nat.mul_comm])
  have hm_lt : m < mcux * mcuy := by rw [← hm, Nat.mul_comm mcux]; exact mul_add_lt_mul hmy hmx
  have hi_lt : i < blocksOf k := by
    rw [← hi, blocksOf, Nat.mul_comm k.hs.toNat]; exact mul_add_lt_mul (Nat.mod_lt _ hvs) (Nat.mod_lt _ hhs)
  have hj : componentOffset comps c + i < blocksPerMcu comps :=
    Nat.lt_of_lt_of_le (Nat.add_lt_add_left hi_lt _) (componentOffset_add_le comps c k hk)
  refine ⟨m * blocksPerMcu comps + (componentOffset comps c + i), mul_add_lt_mul hm_lt hj, ?_⟩
  obtain ⟨hdiv, hmod⟩ := (Nat.div_mod_unique (a := m * blocksPerMcu comps + (componentOffset comps c + i))
    (Nat.zero_lt_of_lt hj)).2 ⟨by rw [Nat.mul_comm, Nat.add_comm], hj⟩
  obtain ⟨hmdiv, hmmod⟩ := (Nat.div_mod_unique (a := m) hmcux).2 ⟨by rw [← hm, Nat.mul_comm, Nat.add_comm], hmx⟩
  obtain ⟨hidiv, himod⟩ := (Nat.div_mod_unique (a := i) hhs).2
    ⟨by rw [← hi, Nat.mul_comm, Nat.add_comm], Nat.mod_lt bc hhs⟩
  have hfind := findComponent_of comps 0 c k i hk hi_lt
  rw [Nat.zero_add] at hfind
  rw [blockPosition_eq (hmod ▸ hfind) hk, hdiv, hmdiv, hmmod, hidiv, himod, Nat.mul_comm, Nat.div_add_mod,
    Nat.mul_comm, Nat.div_add_mod]

/-! ### Upsampling (R221) -/

/-- The row or column that an output row or column takes its sample from is one of the plane. -/
theorem upsampleIndex_lt {x size factor maximum mcus : Nat} (hf : 1 ≤ factor) (hx : x < size)
    (hs : size ≤ mcus * maximum * 8) : upsampleIndex x factor maximum < mcus * factor * 8 := by
  refine Nat.div_lt_of_lt_mul ?_
  calc x * factor < mcus * maximum * 8 * factor := Nat.mul_lt_mul_of_pos_right (Nat.lt_of_lt_of_le hx hs) hf
    _ = maximum * (mcus * factor * 8) := by ring

end Sys2Proof.Machine
end

section
/-! SUPPORT. What a block's commit writes to the planes, and what holds inside a frame (spec/10_state.md R59,
spec/42_block.md R198). -/

namespace Sys2Proof.Machine

/-! ### Keys of samples -/

/-- A property of all keys of a memory and of all written cells is one of all keys after the write. -/
theorem Memory.forall_key_write {w : Nat} {m : Memory w} {P : Nat → Prop} (h : ∀ c ∈ m, P c.1) {a : Nat}
    {vs : List (BitVec w)} (hvs : ∀ i < vs.length, P (a + i)) : ∀ c ∈ m.write a vs, P c.1 := by
  intro c hc
  rw [Memory.write, List.mem_append, List.mem_append] at hc
  rcases hc with (hc | hc) | hc
  · exact h c (List.mem_filter.1 hc).1
  · obtain ⟨hlo, hhi⟩ := mem_cellsFrom_key hc
    have := hvs (c.1 - a) (by omega)
    rwa [Nat.add_sub_cancel' hlo] at this
  · exact h c (List.mem_filter.1 hc).1

theorem planeKey_add (c row col i : Nat) : planeKey c row col + i = planeKey c row (col + i) := Nat.add_assoc ..

/-- A key lies in a plane that a frame `SET_FRAME` accepts can have. -/
def PlaneKeyOk (p : Params) (key : Nat) : Prop :=
  key / 131072 / 131072 < 3 ∧ key / 131072 % 131072 < p.maxFrameH + 32 ∧ key % 131072 < p.maxFrameW + 32

theorem planeOk_iff (s : State) : planeOk s = true ↔ ∀ c ∈ s.plane, PlaneKeyOk s.params c.1 := by
  simp [planeOk, PlaneKeyOk, and_assoc]

/-- The key of a sample names its component, row and column. -/
theorem planeKeyOk_planeKey {p : Params} {c row col : Nat} (hc : c < 3) (hrow : row < 131072) (hcol : col < 131072)
    (hh : row < p.maxFrameH + 32) (hw : col < p.maxFrameW + 32) : PlaneKeyOk p (planeKey c row col) := by
  have hdiv : planeKey c row col / 131072 = c * 131072 + row := by unfold planeKey; omega
  have hmod : planeKey c row col % 131072 = col := by unfold planeKey; omega
  refine ⟨?_, ?_, ?_⟩ <;> omega

/-! ### The rows of a block -/

/-- The row writes of `writeBlock`, for any list of rows. -/
def writeRows (pos : BlockPos) (p : List Byte) (ys : List Nat) (m : Memory 8) : Memory 8 :=
  ys.foldl (fun m y => m.write (planeKey pos.c (8 * pos.br + y) (8 * pos.bc)) ((p.drop (8 * y)).take 8)) m

theorem writeBlock_eq_writeRows (pos : BlockPos) (p : List Byte) (m : Memory 8) :
    writeBlock pos p m = writeRows pos p (List.range 8) m := rfl

theorem writeRows_cons (pos : BlockPos) (p : List Byte) (y : Nat) (ys : List Nat) (m : Memory 8) :
    writeRows pos p (y :: ys) m =
      writeRows pos p ys (m.write (planeKey pos.c (8 * pos.br + y) (8 * pos.bc)) ((p.drop (8 * y)).take 8)) := rfl

theorem writeRows_isSome (pos : BlockPos) (p : List Byte) (ys : List Nat) {m : Memory 8} {b : Nat}
    (h : (m.read b).isSome) : (Memory.read (writeRows pos p ys m) b).isSome := by
  induction ys generalizing m with
  | nil => exact h
  | cons y ys ih =>
    rw [writeRows_cons]
    exact ih (Memory.isSome_read_write m _ b _ h)

/-- The samples of each written row are written. -/
theorem writeRows_writes (pos : BlockPos) {p : List Byte} (hp : p.length = 64) {ys : List Nat} {x y : Nat} (hx : x < 8)
    (hy : y < 8) (hm : y ∈ ys) (m : Memory 8) :
    (Memory.read (writeRows pos p ys m) (planeKey pos.c (8 * pos.br + y) (8 * pos.bc + x))).isSome := by
  induction ys generalizing m with
  | nil => simp at hm
  | cons z ys ih =>
    rw [writeRows_cons]
    rcases List.mem_cons.1 hm with rfl | hm
    · refine writeRows_isSome pos p ys ?_
      rw [← planeKey_add, Memory.read_write_inside _ _ (by omega) (by simp [hp]; omega)]
      rfl
    · exact ih hm _

/-- The keys of a block's samples are the only ones that its rows add. -/
theorem writeRows_forall_key {P : Nat → Prop} {pos : BlockPos} {p : List Byte} {ys : List Nat} {m : Memory 8}
    (h : ∀ c ∈ m, P c.1)
    (hnew : ∀ y ∈ ys, ∀ x < 8, P (planeKey pos.c (8 * pos.br + y) (8 * pos.bc + x))) :
    ∀ c ∈ writeRows pos p ys m, P c.1 := by
  induction ys generalizing m with
  | nil => exact h
  | cons y ys ih =>
    rw [writeRows_cons]
    refine ih (Memory.forall_key_write h fun i hi => ?_) fun z hz => hnew z (by simp [hz])
    rw [planeKey_add]
    exact hnew y (by simp) i (by simp only [List.length_take] at hi; omega)

theorem blockWritten_iff (s : State) (n : Nat) :
    blockWritten s n = true ↔ ∀ y < 8, ∀ x < 8,
      (s.plane.read (planeKey (s.blockPos n).c (8 * (s.blockPos n).br + y) (8 * (s.blockPos n).bc + x))).isSome := by
  simp [blockWritten]

/-! ### Header checks that pass -/

theorem startCheck_none {s : State} (h : startCheck s = none) :
    s.frameActive = false ∧ s.cfgValid = true ∧
      ∀ c < s.ncomp.toNat, s.compv c = true ∧ s.qtv (s.comp c).tq.toNat = true := by
  unfold startCheck at h
  split_ifs at h with ha hv hq
  simp only [Bool.or_eq_true, Bool.not_eq_true', List.any_eq_true, List.mem_range, not_or, not_exists, not_and,
    Bool.not_eq_false] at ha hv hq
  exact ⟨by simpa using ha, hv.1, fun c hc => ⟨hv.2 c hc, hq c hc⟩⟩

theorem blockCheck_none {s : State} (h : blockCheck s = none) :
    s.frameActive = true ∧ s.blkcnt.toNat < s.blktotal.toNat := by
  unfold blockCheck at h
  split_ifs at h with hb
  simpa using hb

theorem finishCheck_none {s : State} (h : finishCheck s = none) : s.frameActive = true ∧ s.blkcnt = s.blktotal := by
  unfold finishCheck at h
  split_ifs at h with hb
  simpa using hb

theorem setFrameCheck_none {nc : BitVec 4} {s : State} (h : setFrameCheck nc s = none) : s.frameActive = false := by
  unfold setFrameCheck at h
  split_ifs at h with ha
  simpa using ha

theorem setCompCheck_none {ci : BitVec 2} {hs vs tq : BitVec 4} {s : State} (h : setCompCheck ci hs vs tq s = none) :
    s.frameActive = false := by
  unfold setCompCheck at h
  split_ifs at h with ha
  simpa using ha

theorem loadQtCheck_none {pq tq : BitVec 4} {s : State} (h : loadQtCheck pq tq s = none) : s.frameActive = false := by
  unfold loadQtCheck at h
  split_ifs at h with ha
  simpa using ha

/-! ### A configured frame -/

theorem dimensionCheck_none {p : Params} {width height : BitVec 16} (h : dimensionCheck p width height = none) :
    (1 ≤ width.toNat ∧ width.toNat ≤ p.maxFrameW) ∧ (1 ≤ height.toNat ∧ height.toNat ≤ p.maxFrameH) := by
  unfold dimensionCheck at h
  split_ifs at h with hd
  omega

/-- The frame of a complete configuration. -/
structure State.Configured (s : State) : Prop where
  count : s.ncomp.toNat = 1 ∨ s.ncomp.toNat = 3
  width : 1 ≤ s.frameW.toNat ∧ s.frameW.toNat ≤ s.params.maxFrameW
  height : 1 ≤ s.frameH.toNat ∧ s.frameH.toNat ≤ s.params.maxFrameH
  factors : ∀ k ∈ s.activeComps, (1 ≤ k.hs.toNat ∧ k.hs.toNat ≤ 4) ∧ (1 ≤ k.vs.toNat ∧ k.vs.toNat ≤ 4)

theorem compOk_factors {k : CompCfg} (h : compOk true k = true) :
    (1 ≤ k.hs.toNat ∧ k.hs.toNat ≤ 4) ∧ (1 ≤ k.vs.toNat ∧ k.vs.toNat ≤ 4) := by
  simp only [compOk, if_true, legalFactor, Bool.and_eq_true, decide_eq_true_eq] at h
  exact h.1

/-- The components in use are those below the count. -/
theorem mem_activeComps {s : State} (hn : s.ncomp.toNat ≤ 3) {k : CompCfg} (h : k ∈ s.activeComps) :
    ∃ c < s.ncomp.toNat, s.comp c = k := by
  obtain ⟨c, hc⟩ := List.mem_iff_getElem?.1 h
  have hlt : c < s.ncomp.toNat := by
    by_contra hge
    have hlen : s.activeComps.length ≤ s.ncomp.toNat := List.length_take_le ..
    rw [List.getElem?_eq_none (by omega)] at hc
    simp at hc
  rw [activeComps_get hn hlt] at hc
  exact ⟨c, hlt, Option.some.inj hc⟩

theorem State.ConfigOk.configured {s : State} (h : s.ConfigOk) (hv : s.cfgValid = true)
    (hc : ∀ c < s.ncomp.toNat, s.compv c = true) : s.Configured := by
  obtain ⟨hcfg, -, h0, h1, h2, -, -⟩ := h
  obtain ⟨hcount, hdim⟩ := hcfg hv
  obtain ⟨hw, hh⟩ := dimensionCheck_none hdim
  have hcount : s.ncomp.toNat = 1 ∨ s.ncomp.toNat = 3 := by simpa [legalCount] using hcount
  have hn : s.ncomp.toNat ≤ 3 := by omega
  refine ⟨hcount, hw, hh, fun k hk => ?_⟩
  obtain ⟨c, hlt, rfl⟩ := mem_activeComps hn hk
  have hvalid := hc c hlt
  match c, hlt with
  | 0, _ => exact compOk_factors (hvalid ▸ h0)
  | 1, _ => exact compOk_factors (hvalid ▸ h1)
  | 2, _ => exact compOk_factors (hvalid ▸ h2)
  | c + 3, hlt => omega

namespace State.Configured

variable {s : State}

theorem exists_active (h : s.Configured) : s.comp 0 ∈ s.activeComps :=
  List.mem_of_getElem? (activeComps_get (by have := h.count; omega) (by have := h.count; omega))

theorem maxHs_bounds (h : s.Configured) : 1 ≤ maxHs s.activeComps ∧ maxHs s.activeComps ≤ 4 :=
  ⟨(h.factors _ h.exists_active).1.1.trans (le_maxHs h.exists_active), maxHs_le fun k hk => (h.factors k hk).1.2⟩

theorem maxVs_bounds (h : s.Configured) : 1 ≤ maxVs s.activeComps ∧ maxVs s.activeComps ≤ 4 :=
  ⟨(h.factors _ h.exists_active).2.1.trans (le_maxVs h.exists_active), maxVs_le fun k hk => (h.factors k hk).2.2⟩

/-- The grid and the block count fit their registers (R171, R172). -/
theorem grid_fits (h : s.Configured) :
    mcuCount s.frameW.toNat (maxHs s.activeComps) ≤ 8192 ∧ mcuCount s.frameH.toNat (maxVs s.activeComps) ≤ 8192 ∧
      mcuCount s.frameW.toNat (maxHs s.activeComps) * mcuCount s.frameH.toNat (maxVs s.activeComps) *
        blocksPerMcu s.activeComps < 2 ^ 32 := by
  have hx := mcuCount_le (Nat.le_of_lt_succ s.frameW.isLt) h.maxHs_bounds.1
  have hy := mcuCount_le (Nat.le_of_lt_succ s.frameH.isLt) h.maxVs_bounds.1
  have hb := blocksPerMcu_le fun k hk => ⟨(h.factors k hk).1.2, (h.factors k hk).2.2⟩
  have hlen : s.activeComps.length ≤ 3 := List.length_take_le' ..
  refine ⟨hx, hy, ?_⟩
  calc _ ≤ 8192 * 8192 * 48 := Nat.mul_le_mul (Nat.mul_le_mul hx hy) (by omega)
    _ < 2 ^ 32 := by norm_num

end State.Configured

end Sys2Proof.Machine
end

section
/-! SUPPORT and PROOFS. Every step keeps the frame's rules (spec/10_state.md R56, R59, R62, spec/41_frame.md R170 to
R172, spec/42_block.md R198). -/

namespace Sys2Proof.Machine

/-! ### Inside a frame -/

/-- What the configuration's and the frame's rules say of a state inside a frame, in numbers. -/
structure State.InFrame (s : State) : Prop extends s.Configured where
  components : ∀ c < s.ncomp.toNat, s.compv c = true ∧ s.qtv (s.comp c).tq.toNat = true
  hmax : s.hmax.toNat = maxHs s.activeComps
  vmax : s.vmax.toNat = maxVs s.activeComps
  mcux : s.mcux.toNat = mcuCount s.frameW.toNat (maxHs s.activeComps)
  mcuy : s.mcuy.toNat = mcuCount s.frameH.toNat (maxVs s.activeComps)
  total : s.blktotal.toNat = s.mcux.toNat * s.mcuy.toNat * blocksPerMcu s.activeComps
  written : ∀ n < s.blkcnt.toNat, blockWritten s n = true

theorem State.FrameOk.inFrame {s : State} (h : s.FrameOk) (hc : s.ConfigOk) (ha : s.frameActive = true) :
    s.InFrame := by
  obtain ⟨-, -, hin, -⟩ := h
  obtain ⟨-, hvalid, hcomps, hhm, hvm, hx, hy, htot, hwr⟩ := hin ha
  have hcomps : ∀ c < s.ncomp.toNat, s.compv c = true ∧ s.qtv (s.comp c).tq.toNat = true := by simpa using hcomps
  exact {
    hc.configured hvalid fun c hlt => (hcomps c hlt).1 with
    components := hcomps, hmax := hhm, vmax := hvm, mcux := hx, mcuy := hy, total := htot
    written := by simpa using hwr }

namespace State.InFrame

variable {s : State}

theorem ncomp_le (h : s.InFrame) : s.ncomp.toNat ≤ 3 := by
  have := h.count
  omega

theorem comp_active (h : s.InFrame) {c : Nat} (hc : c < s.ncomp.toNat) : s.activeComps[c]? = some (s.comp c) :=
  activeComps_get h.ncomp_le hc

/-- The planes cover the frame along the greatest factor, and exceed it by less than an MCU (R171). -/
theorem covers (h : s.InFrame) :
    (s.frameW.toNat ≤ s.mcux.toNat * maxHs s.activeComps * 8 ∧
      s.mcux.toNat * maxHs s.activeComps * 8 < s.frameW.toNat + 32) ∧
    (s.frameH.toNat ≤ s.mcuy.toNat * maxVs s.activeComps * 8 ∧
      s.mcuy.toNat * maxVs s.activeComps * 8 < s.frameH.toNat + 32) := by
  obtain ⟨hh1, hh4⟩ := h.maxHs_bounds
  obtain ⟨hv1, hv4⟩ := h.maxVs_bounds
  have hx := mcuCount_covers hh1 h.width.1
  have hy := mcuCount_covers hv1 h.height.1
  rw [← h.mcux] at hx
  rw [← h.mcuy] at hy
  omega

/-- A plane of a component in use exceeds the frame by less than 32 samples (R178). -/
theorem plane_lt (h : s.InFrame) {c : Nat} (hc : c < s.ncomp.toNat) :
    s.planeWidth c < s.frameW.toNat + 32 ∧ s.planeHeight c < s.frameH.toNat + 32 := by
  have hk : s.comp c ∈ s.activeComps := List.mem_of_getElem? (h.comp_active hc)
  obtain ⟨⟨-, hw⟩, -, hh⟩ := h.covers
  have hx : s.planeWidth c ≤ s.mcux.toNat * maxHs s.activeComps * 8 :=
    Nat.mul_le_mul_right 8 (Nat.mul_le_mul_left _ (le_maxHs hk))
  have hy : s.planeHeight c ≤ s.mcuy.toNat * maxVs s.activeComps * 8 :=
    Nat.mul_le_mul_right 8 (Nat.mul_le_mul_left _ (le_maxVs hk))
  omega

/-- A block of the frame lies in the plane of a component in use (R178). -/
theorem blockPos_inside (h : s.InFrame) {n : Nat} (hn : n < s.blktotal.toNat) :
    (s.blockPos n).c < s.ncomp.toNat ∧ 8 * (s.blockPos n).br + 8 ≤ s.planeHeight (s.blockPos n).c ∧
      8 * (s.blockPos n).bc + 8 ≤ s.planeWidth (s.blockPos n).c := by
  rw [h.total] at hn
  obtain ⟨k, hk, hbr, hbc⟩ := blockPosition_inside hn
  rw [← State.blockPos] at hk hbr hbc
  have hlen : s.activeComps.length ≤ s.ncomp.toNat := List.length_take_le ..
  have hc : (s.blockPos n).c < s.ncomp.toNat := (List.getElem?_eq_some_iff.1 hk).1.trans_le hlen
  rw [h.comp_active hc, Option.some.injEq] at hk
  subst hk
  simp only [State.planeHeight, State.planeWidth]
  omega

/-- Each sample of a block has a key inside the planes (R59). -/
theorem planeKeyOk_sample (h : s.InFrame) {n x y : Nat} (hn : n < s.blktotal.toNat) (hx : x < 8) (hy : y < 8) :
    PlaneKeyOk s.params (planeKey (s.blockPos n).c (8 * (s.blockPos n).br + y) (8 * (s.blockPos n).bc + x)) := by
  obtain ⟨hc, hbr, hbc⟩ := h.blockPos_inside hn
  obtain ⟨hpw, hph⟩ := h.plane_lt hc
  have hncomp := h.ncomp_le
  have hwidth := h.width.2
  have hheight := h.height.2
  have hw := s.frameW.isLt
  have hh := s.frameH.isLt
  exact planeKeyOk_planeKey (by omega) (by omega) (by omega) (by omega) (by omega)

end State.InFrame

/-! ### The commits -/

/-- The frame's rules outside a frame, from a state with the same counts and planes. -/
theorem State.FrameOk.of_closed {s t : State} (h : s.FrameOk) (ha : t.frameActive = false) (hp : t.params = s.params)
    (hc : t.blkcnt = s.blkcnt) (ht : t.blktotal = s.blktotal) (hpl : t.plane = s.plane)
    (ho : t.outm.keysIn 0 (outmSize s.params) = true) : t.FrameOk := by
  obtain ⟨hcnt, -, -, hplane⟩ := h
  rw [planeOk_iff] at hplane
  refine ⟨by rwa [hc, ht], by rwa [hp], by simp [ha], ?_⟩
  rw [planeOk_iff, hpl, hp]
  exact hplane

theorem frameOk_raiseError {s : State} (h : s.FrameOk) (c : Cause) (op : BitVec 8) (j : Nat) :
    (raiseError c op j s).FrameOk :=
  h.of_closed rfl rfl rfl rfl rfl h.2.1

/-- A new frame has no counted block, and the grid registers hold the grid of the rules. -/
theorem frameOk_commitStart {s : State} (h : s.FrameOk) (hc : s.ConfigOk) (hk : startCheck s = none) :
    (commitStart s).FrameOk := by
  obtain ⟨-, hout, -, hplane⟩ := h
  obtain ⟨-, hvalid, hcomps⟩ := startCheck_none hk
  have hconf := hc.configured hvalid fun c hlt => (hcomps c hlt).1
  obtain ⟨hx, hy, htot⟩ := hconf.grid_fits
  have hh := hconf.maxHs_bounds.2
  have hv := hconf.maxVs_bounds.2
  have hmcux : (commitStart s).mcux.toNat = mcuCount s.frameW.toNat (maxHs s.activeComps) :=
    BitVec.toNat_ofNat .. ▸ Nat.mod_eq_of_lt (by omega)
  have hmcuy : (commitStart s).mcuy.toNat = mcuCount s.frameH.toNat (maxVs s.activeComps) :=
    BitVec.toNat_ofNat .. ▸ Nat.mod_eq_of_lt (by omega)
  have htotal : (commitStart s).blktotal.toNat = (commitStart s).mcux.toNat * (commitStart s).mcuy.toNat *
      blocksPerMcu s.activeComps := by
    rw [hmcux, hmcuy]
    exact BitVec.toNat_ofNat .. ▸ Nat.mod_eq_of_lt htot
  refine ⟨Nat.zero_le _, hout, fun _ => ⟨rfl, hvalid, ?_, ?_, ?_, hmcux, hmcuy, htotal, rfl⟩, hplane⟩
  · simpa [State.compv, State.comp, State.qtv] using hcomps
  · exact BitVec.toNat_ofNat .. ▸ Nat.mod_eq_of_lt (by omega)
  · exact BitVec.toNat_ofNat .. ▸ Nat.mod_eq_of_lt (by omega)

/-- A block's commit writes its 64 samples inside the planes, and counts it. -/
theorem frameOk_storeBlock {s : State} (h : s.FrameOk) (hc : s.ConfigOk) (hk : blockCheck s = none) (d : List Int) :
    (storeBlock (s.blockPos s.blkcnt.toNat) d s).FrameOk := by
  obtain ⟨ha, hlt⟩ := blockCheck_none hk
  have hin := h.inFrame hc ha
  obtain ⟨-, hout, hframe, hplane⟩ := h
  obtain ⟨hdone, hvalid, hcomps, hhm, hvm, hx, hy, htot, -⟩ := hframe ha
  have hcnt : (s.blkcnt + 1).toNat = s.blkcnt.toNat + 1 := by
    refine BitVec.toNat_add_of_lt ?_
    have := s.blktotal.isLt
    show s.blkcnt.toNat + 1 < 2 ^ 32
    omega
  refine ⟨?_, hout, fun _ => ⟨hdone, hvalid, hcomps, hhm, hvm, hx, hy, htot, ?_⟩, ?_⟩
  · rw [storeBlock_blkcnt, hcnt]
    exact hlt
  · simp only [List.all_eq_true, List.mem_range, storeBlock_blkcnt, hcnt, blockWritten_iff, storeBlock_plane,
      writeBlock_eq_writeRows]
    intro n hn y hy x hx
    rcases Nat.lt_succ_iff_lt_or_eq.1 hn with hold | rfl
    · exact writeRows_isSome _ _ _ ((blockWritten_iff s n).1 (hin.written n hold) y hy x hx)
    · exact writeRows_writes _ (blockSamples_length d) hx hy (List.mem_range.2 hy) _
  · rw [planeOk_iff] at hplane ⊢
    exact writeRows_forall_key hplane fun y hy x hx => hin.planeKeyOk_sample hlt hx (List.mem_range.1 hy)

/-- The raster of an accepted frame fits in the output memory (R62). -/
theorem frameOk_commitFinish {s : State} (h : s.FrameOk) (hc : s.ConfigOk) (hk : finishCheck s = none) :
    (commitFinish s).FrameOk := by
  have hin := h.inFrame hc (finishCheck_none hk).1
  refine h.of_closed rfl rfl rfl rfl rfl (Memory.keysIn_write h.2.1 0 _ (Nat.zero_le _) ?_)
  have hpixels := Nat.mul_le_mul_right 3 (Nat.mul_le_mul hin.width.2 hin.height.2)
  rw [raster_length]
  simp only [outmSize, cdiv]
  omega

/-- Every commit keeps the frame's rules. -/
theorem frameOk_commitOf {s : State} (h : s.FrameOk) (hc : s.ConfigOk) {i : Instr} (hi : passes i s) :
    (commitOf i s).FrameOk := by
  cases i with
  | nop => exact h
  | setFrame nc height width => exact h.of_closed (setFrameCheck_none hi.1) rfl rfl rfl rfl h.2.1
  | setComp ci hs vs tq =>
    exact h.of_closed (by simpa [commitOf] using setCompCheck_none hi) (by simp [commitOf]) (by simp [commitOf])
      (by simp [commitOf]) (by simp [commitOf]) (by simpa [commitOf] using h.2.1)
  | loadQt pq tq entries =>
    exact h.of_closed (by simpa [commitOf, commitLoadQt] using loadQtCheck_none hi.1) (by simp)
      (by simp [commitOf, commitLoadQt]) (by simp [commitOf, commitLoadQt]) (by simp [commitOf, commitLoadQt])
      (by simpa [commitOf, commitLoadQt] using h.2.1)
  | start => exact frameOk_commitStart h hc hi
  | block coefs => exact frameOk_storeBlock h hc hi.1 _
  | finish => exact frameOk_commitFinish h hc hi

/-! ### The steps -/

/-- What an engine step leaves keeps the frame's rules: taking and staging words changes nothing that they speak of. -/
theorem EngineLeaves.frameOk {s u : State} (hu : EngineLeaves s u) (h : s.FrameOk) (hc : s.ConfigOk) : u.FrameOk := by
  cases hu with
  | error w rest v c op j hf hp hne hv =>
    rcases hv with rfl | ⟨op', hdr, n, -, -, rfl⟩
    · exact frameOk_raiseError (s := popWord rest s) h c op j
    · exact frameOk_raiseError (s := commandComplete (stage (n + 1) w (popWord rest s))) h c op j
  | header w rest op hf hp hd hl hk => exact h
  | staged w rest op hdr n hf hp hk hl => exact h
  | oneWord w rest op hf hp hd hl hi => exact frameOk_commitOf (s := popWord rest s) h hc hi
  | lastWord w rest op hdr n v hf hp hw hl hv hi =>
    subst hv
    exact frameOk_commitOf (s := commandComplete (stage (n + 1) w (popWord rest s))) h hc hi

theorem frameOk_releaseHeld {s : State} (h : s.FrameOk) : (releaseHeld s).FrameOk := by
  rcases releaseHeld_cases s with ⟨-, hr⟩ | ⟨-, -, hr⟩ | ⟨w, ws, -, -, -, hr⟩ | ⟨-, -, -, hr⟩ <;> rw [hr] <;> exact h

theorem frameOk_resetEngine (s : State) : (resetEngine s).FrameOk :=
  ⟨Nat.le_refl 0, rfl, by simp [State.reset], rfl⟩

theorem frameOk_hostWrite {s : State} (h : s.FrameOk) (m : Master) (off : Nat) (w : Word) :
    (hostWrite m off w s).FrameOk := by
  rcases hostWrite_cases m off w s with hw | hw | hw | ⟨-, -, hw⟩ | ⟨-, -, hw⟩ | hw <;> rw [hw]
  · exact frameOk_resetEngine s
  · exact h
  · obtain ⟨hcnt, hout, hframe, hplane⟩ := h
    exact ⟨hcnt, hout, fun ha => ⟨rfl, (hframe ha).2⟩, hplane⟩
  · exact h
  · exact h
  · exact h

/-- Settles O59: an engine step keeps the rules by its commit's lemma, and the host can clear `DONE` or reset. -/
theorem stepKeepsFrameRules : Obligations.StepKeepsFrameRules := by
  intro s t _ hc h hstep
  rcases step_cases hstep with ⟨ts, u, -, hu, rfl⟩ | ⟨ts, -, -, rfl⟩ | ⟨m, off, ts, -, -, -, rfl⟩ |
    ⟨m, off, w, ts, -, -, -, rfl⟩ | ⟨ts, -, rfl⟩
  · exact frameOk_releaseHeld (hu.frameOk h hc)
  · exact h
  · exact h
  · exact frameOk_hostWrite (s := { s with agenda := ts }) h m off.toNat w
  · exact frameOk_resetEngine _

end Sys2Proof.Machine
end

section
/-! PROOFS. A reset meets every invariant (spec/10_state.md R67, spec/00_scope.md R10), and under the invariants no
command reads a cell that was never written (R59, R67, spec/43_reconstruct.md R221). -/

namespace Sys2Proof.Machine

/-! ### Reset -/

/-- The open parameters are a legal triple (spec/00_scope.md R10). -/
theorem params_legal : Config.params.Legal := by
  have hw1 : 1 ≤ Config.maxFrameW := Nat.le_add_right ..
  have hw : Config.maxFrameW ≤ 65535 := by
    have := Nat.mod_lt (Config.freeParam 0) (show 0 < 65535 by decide)
    unfold Config.maxFrameW
    omega
  -- how high a frame may be so that the output window fits
  have hquot : 1 ≤ 0xFF000000 / (3 * Config.maxFrameW) := by
    rw [Nat.one_le_div_iff (by omega)]
    omega
  have hh1 : 1 ≤ Config.maxFrameH := Nat.le_add_right ..
  have hh : Config.maxFrameH ≤ min 65535 (0xFF000000 / (3 * Config.maxFrameW)) := by
    have := Nat.mod_lt (Config.freeParam 1) (show 0 < min 65535 (0xFF000000 / (3 * Config.maxFrameW)) by omega)
    unfold Config.maxFrameH
    omega
  have hd : 1 ≤ Config.fifoDepth ∧ Config.fifoDepth ≤ 65535 := by
    have := Nat.mod_lt (Config.freeParam 2) (show 0 < 65535 by decide)
    unfold Config.fifoDepth
    omega
  refine ⟨⟨hw1, hw⟩, ⟨hh1, hh.trans (min_le_left ..)⟩, hd, ?_⟩
  calc Config.maxFrameW * Config.maxFrameH * 3 = 3 * Config.maxFrameW * Config.maxFrameH := by ring
    _ ≤ 3 * Config.maxFrameW * (0xFF000000 / (3 * Config.maxFrameW)) :=
      Nat.mul_le_mul_left _ (hh.trans (min_le_right ..))
    _ ≤ 0xFF000000 := Nat.mul_div_le ..

theorem memoryOk_reset : State.reset.MemoryOk := ⟨rfl, rfl, rfl, rfl, rfl, rfl, rfl, rfl, rfl⟩

theorem configOk_reset : State.reset.ConfigOk :=
  ⟨by simp [State.reset], fun _ => ⟨rfl, rfl, rfl⟩, rfl, rfl, rfl, by decide, by decide⟩

/-- Settles O55: the reset state is the one that a reset leaves. -/
theorem resetMeetsTheInvariants : Obligations.ResetMeetsTheInvariants :=
  ⟨memoryOk_reset, portOk_resetEngine (s := State.reset) params_legal, configOk_reset,
    frameOk_resetEngine State.reset⟩

/-! ### What the commands read -/

/-- A valid table has all of its entries. -/
theorem State.ConfigOk.isSome_qt {s : State} (h : s.ConfigOk) {t i : Nat} (ht : s.qtv t = true) (hi : i < 64) :
    (s.qt.read (qtKey t i)).isSome = true := by
  obtain ⟨-, -, -, -, -, h0, h1⟩ := h
  have hall : ∀ u, tableOk s u = true → s.qtv u = true → (s.qt.read (qtKey u i)).isSome = true := by
    intro u hu hv
    simp only [tableOk, List.all_eq_true, List.mem_range, hv, beq_iff_eq] at hu
    exact hu i hi
  match t, ht with
  | 0, ht => exact hall 0 h0 ht
  | 1, ht => exact hall 1 h1 ht
  | t + 2, ht => simp [State.qtv] at ht

/-- Where every block is counted, every sample of a plane in use is written. -/
theorem State.InFrame.isSome_plane {s : State} (h : s.InFrame) (hall : s.blkcnt = s.blktotal) {c row col : Nat}
    (hc : c < s.ncomp.toNat) (hrow : row < s.planeHeight c) (hcol : col < s.planeWidth c) :
    (s.plane.read (planeKey c row col)).isSome = true := by
  obtain ⟨n, hn, hpos⟩ := exists_blockPosition (h.comp_active hc) ((Nat.div_lt_iff_lt_mul (by decide)).2 hrow)
    ((Nat.div_lt_iff_lt_mul (by decide)).2 hcol)
  rw [← h.total, ← hall] at hn
  have hwritten := (blockWritten_iff s n).1 (h.written n hn) (row % 8) (Nat.mod_lt _ (by decide)) (col % 8)
    (Nat.mod_lt _ (by decide))
  rwa [State.blockPos, hpos, Nat.div_add_mod, Nat.div_add_mod] at hwritten

/-- `FINISH` takes its samples inside the planes in use. -/
theorem State.InFrame.isSome_sample {s : State} (h : s.InFrame) (hall : s.blkcnt = s.blktotal) {c x y : Nat}
    (hc : c < s.ncomp.toNat) (hx : x < s.frameW.toNat) (hy : y < s.frameH.toNat) :
    (s.plane.read (sampleKey s c x y)).isSome = true := by
  obtain ⟨⟨hs, -⟩, hv, -⟩ := h.factors _ (List.mem_of_getElem? (h.comp_active hc))
  obtain ⟨⟨hw, -⟩, hh, -⟩ := h.covers
  rw [← h.hmax] at hw
  rw [← h.vmax] at hh
  exact h.isSome_plane hall hc (upsampleIndex_lt hv hy hh) (upsampleIndex_lt hs hx hw)

theorem isSome_staged {op : Opcode} {hdr : Word} {n j : Nat} {s : State} (h : stagedOk op hdr n s = true) (hj : 1 ≤ j)
    (hn : j ≤ n) : (s.stg.read j).isSome = true := by
  simp only [stagedOk, List.all_eq_true, List.mem_range] at h
  have hj' := h (j - 1) (by omega)
  rw [Nat.sub_add_cancel hj] at hj'
  rcases hr : s.stg.read j with _ | w
  · simp [hr] at hj'
  · rfl

/-- Settles O60: a `BLOCK` reads a valid table's entries, `FINISH` samples of a complete frame, and the parser words
that it has staged. -/
theorem noCommandReadsBeforeWriting : Obligations.NoCommandReadsBeforeWriting := by
  rintro s ⟨-, hport, hc, hf⟩
  refine ⟨fun hk i hi => ?_, fun hk c x y hcc hx hy => ?_, fun op hdr n hp j hj hn => ?_⟩
  · obtain ⟨ha, hlt⟩ := blockCheck_none hk
    have hin := hf.inFrame hc ha
    exact hc.isSome_qt (hin.components _ (hin.blockPos_inside hlt).1).2 hi
  · obtain ⟨ha, hall⟩ := finishCheck_none hk
    exact (hf.inFrame hc ha).isSome_sample hall hcc hx hy
  · obtain ⟨-, -, -, -, -, -, -, -, hpay⟩ := hport
    obtain ⟨-, -, -, hst⟩ := (payloadOk_payload hp).1 hpay
    exact isSome_staged hst hj hn

end Sys2Proof.Machine
end

section
/-! SUPPORT and PROOFS. The registers as numbers and bits (spec/10_state.md section 3), after a reset (R67), and what
the writes of `CTRL`, `STATUS` and `CMDPORT` do (R37, R38, R40, R48, spec/20_memory.md R93). -/

namespace Sys2Proof.Machine

open Host (Outcome)

/-! ### Fields and flags of a word -/

theorem toNat_placeField {n lo : Nat} (v : BitVec n) (h : n + lo ≤ 32) :
    (placeField v lo).toNat = v.toNat * 2 ^ lo := by
  have hpow : v.toNat * 2 ^ lo < 2 ^ 32 :=
    calc v.toNat * 2 ^ lo < 2 ^ n * 2 ^ lo := Nat.mul_lt_mul_of_pos_right v.isLt (Nat.two_pow_pos lo)
      _ = 2 ^ (n + lo) := (Nat.pow_add ..).symm
      _ ≤ 2 ^ 32 := Nat.pow_le_pow_right (by decide) h
  have hv : v.toNat < 2 ^ 32 := Nat.lt_of_le_of_lt (Nat.le_mul_of_pos_right _ (Nat.two_pow_pos lo)) hpow
  rw [BitVec.toNat_shiftLeft, BitVec.toNat_setWidth, Nat.mod_eq_of_lt hv, Nat.shiftLeft_eq, Nat.mod_eq_of_lt hpow]

/-- A field above the bits of a word adds its value at its place. -/
theorem toNat_placeField_or {n lo : Nat} (v : BitVec n) (h : n + lo ≤ 32) {w : Word} (hw : w.toNat < 2 ^ lo) :
    (placeField v lo ||| w).toNat = v.toNat * 2 ^ lo + w.toNat := by
  rw [BitVec.toNat_or, toNat_placeField v h, Nat.mul_comm, ← Nat.two_pow_add_eq_or_of_lt hw]

theorem toNat_halves (hi lo : BitVec 16) :
    (placeField hi 16 ||| placeField lo 0).toNat = hi.toNat * 65536 + lo.toNat := by
  have hlo := toNat_placeField lo (lo := 0) (by decide)
  rw [toNat_placeField_or hi (by decide) (by rw [hlo]; omega), hlo]
  omega

theorem toNat_nibbles (hi lo : BitVec 4) :
    (placeField hi 4 ||| placeField lo 0).toNat = hi.toNat * 16 + lo.toNat := by
  have hlo := toNat_placeField lo (lo := 0) (by decide)
  rw [toNat_placeField_or hi (by decide) (by rw [hlo]; omega), hlo]
  omega

theorem halves_eq_append (hi lo : BitVec 16) : placeField hi 16 ||| placeField lo 0 = hi ++ lo := by
  refine BitVec.eq_of_toNat_eq ?_
  rw [toNat_halves, BitVec.toNat_append, Nat.shiftLeft_eq, Nat.mul_comm, ← Nat.two_pow_add_eq_or_of_lt lo.isLt]

theorem getLsbD_flagAt (b : Bool) {n : Nat} (hn : n < 32) (i : Nat) :
    (flagAt b n).getLsbD i = (b && decide (i = n)) := by
  cases b with
  | false => simp [flagAt]
  | true =>
    simp only [flagAt, if_true, BitVec.getLsbD_shiftLeft, BitVec.getLsbD_one, Bool.true_and]
    by_cases hi : i = n
    · simp [hi, hn]
    · simp only [hi, decide_false]
      by_cases hlt : i < n
      · simp [hlt]
      · simp [show i - n ≠ 0 by omega]

/-! ### The registers -/

theorem toNat_compCfgWord (k : CompCfg) :
    (compCfgWord k).toNat = k.hs.toNat * 256 + k.vs.toNat * 16 + k.tq.toNat := by
  have hlow := toNat_nibbles k.vs k.tq
  rw [compCfgWord, BitVec.or_assoc, toNat_placeField_or k.hs (by decide) (by rw [hlow]; omega), hlow]
  omega

theorem toNat_errInfoWord (s : State) :
    (errInfoWord s).toNat =
      s.errInfo.word.toNat * 65536 + s.errInfo.opcode.toNat * 256 + s.errInfo.cause.code.toNat := by
  have hcause := toNat_placeField s.errInfo.cause.code (lo := 0) (by decide)
  have hlow := toNat_placeField_or s.errInfo.opcode (lo := 8) (by decide)
    (w := placeField s.errInfo.cause.code 0) (by rw [hcause]; omega)
  rw [errInfoWord, BitVec.or_assoc, toNat_placeField_or s.errInfo.word (by decide) (by rw [hlow, hcause]; omega), hlow,
    hcause]
  omega

theorem toNat_ctrlWord (s : State) : (ctrlWord s).toNat = (if s.errIE then 2 else 0) + (if s.doneIE then 1 else 0) := by
  unfold ctrlWord
  cases s.doneIE <;> cases s.errIE <;> rfl

/-- Settles O51: the maxima and the depth fit their fields under legal parameters, and no two fields overlap. -/
theorem registerWords : Obligations.RegisterWords := by
  refine ⟨fun s hp hf => ⟨rfl, ?_, toNat_ctrlWord s, toNat_errInfoWord s, rfl, ?_, toNat_halves .., ?_,
    fun c hc => ?_, toNat_halves .., toNat_nibbles .., rfl, rfl⟩, rfl⟩
  · obtain ⟨hw, hh, -, -⟩ := hp
    refine (toNat_halves _ _).trans ?_
    rw [BitVec.toNat_ofNat, BitVec.toNat_ofNat, Nat.mod_eq_of_lt (by omega), Nat.mod_eq_of_lt (by omega)]
  · obtain ⟨-, -, hd, -⟩ := hp
    refine (toNat_halves _ _).trans ?_
    rw [BitVec.toNat_ofNat, BitVec.toNat_ofNat, Nat.mod_eq_of_lt (by omega), Nat.mod_eq_of_lt (by omega)]
  · exact (toNat_placeField _ (by decide)).trans (Nat.mul_one _)
  · match c, hc with
    | 0, _ => exact toNat_compCfgWord _
    | 1, _ => exact toNat_compCfgWord _
    | 2, _ => exact toNat_compCfgWord _
    | c + 3, hc => omega

theorem pending_iff (p : ParserState) : p.pending = true ↔ ∃ op hdr n, p = .payload op hdr n := by
  cases p <;> simp [ParserState.pending]

theorem busy_iff (s : State) :
    s.busy = true ↔ s.err = false ∧ (s.fifo ≠ [] ∨ ∃ op hdr n, s.ps = .payload op hdr n) := by
  simp [State.busy, ← pending_iff]

theorem irq_iff (s : State) :
    s.irq = true ↔ (s.done = true ∧ s.doneIE = true) ∨ (s.err = true ∧ s.errIE = true) := by
  simp [State.irq]

/-- The flags of `STATUS` in the order of their bits (spec/10_state.md R38). -/
def statusFlags (s : State) : List Bool :=
  [s.busy, s.done, s.err, s.frameActive, s.qt0Valid, s.qt1Valid, s.irq, s.cfgValid, s.comp0Valid, s.comp1Valid,
    s.comp2Valid]

/-- Each flag has its own bit, and no other bit is set. -/
theorem getLsbD_statusWord (s : State) (i : Nat) : (statusWord s).getLsbD i = (statusFlags s).getD i false := by
  simp (disch := decide) only [statusWord, BitVec.getLsbD_or, getLsbD_flagAt]
  match i with
  | 0 | 1 | 2 | 3 | 4 | 5 | 6 | 7 | 8 | 9 | 10 | i + 11 => simp [statusFlags]

/-- Settles O52: the bits are the flags in their order, two of them computed. -/
theorem statusBits : Obligations.StatusBits := by
  intro s
  have hbit : ∀ i, (readOffset s 0x0C).getLsbD i = (statusFlags s).getD i false := getLsbD_statusWord s
  refine ⟨?_, hbit 1, hbit 2, hbit 3, hbit 4, hbit 5, ?_, hbit 7, hbit 8, hbit 9, hbit 10, fun n hn => ?_⟩
  · rw [hbit 0]
    exact busy_iff s
  · rw [hbit 6]
    exact irq_iff s
  · rw [hbit n]
    exact List.getD_eq_default _ _ hn

/-! ### After a reset -/

theorem ctrlWord_reset (r : State) : ctrlWord (resetEngine r) = 0 :=
  (by decide : flagAt false 0 ||| flagAt false 1 = 0)

theorem statusWord_reset (r : State) : statusWord (resetEngine r) = 0 := by
  simp [statusWord, flagAt, State.busy, State.irq, State.reset, ParserState.pending]

theorem frameCfgWord_reset (r : State) : frameCfgWord (resetEngine r) = 0 :=
  (by decide : placeField (0 : BitVec 16) 16 ||| placeField (0 : BitVec 16) 0 = 0)

theorem gridWord_reset (r : State) : gridWord (resetEngine r) = 0 :=
  (by decide : placeField (0 : BitVec 16) 16 ||| placeField (0 : BitVec 16) 0 = 0)

theorem maxSampWord_reset (r : State) : maxSampWord (resetEngine r) = 0 :=
  (by decide : placeField (0 : BitVec 4) 4 ||| placeField (0 : BitVec 4) 0 = 0)

theorem ncompWord_reset (r : State) : ncompWord (resetEngine r) = 0 :=
  (by decide : placeField (0 : BitVec 4) 0 = 0)

theorem errInfoWord_reset (r : State) : errInfoWord (resetEngine r) = 0 :=
  (by decide : placeField (0 : BitVec 7) 16 ||| placeField (0 : BitVec 8) 8 ||| placeField Cause.none.code 0 = 0)

theorem compCfgWord_zero : compCfgWord ⟨0, 0, 0⟩ = 0 := by decide

/-- Settles O42: power-on leaves what a reset of the reset state leaves, whose registers and memories compute. -/
theorem resetStateTable : Obligations.ResetStateTable := by
  intro s hs
  obtain ⟨r, rfl⟩ : ∃ r : State, s = resetEngine r := hs.elim (fun h => ⟨State.reset, h⟩) id
  exact ⟨rfl, ctrlWord_reset r, statusWord_reset r, errInfoWord_reset r, frameCfgWord_reset r, ncompWord_reset r,
    compCfgWord_zero, compCfgWord_zero, compCfgWord_zero, gridWord_reset r, maxSampWord_reset r, rfl, rfl, halves_eq_append ..,
    halves_eq_append .., rfl, rfl, rfl, rfl, rfl, rfl, fun _ => ⟨rfl, rfl, rfl, rfl, rfl, rfl⟩⟩

/-! ### Host accesses -/

theorem step_read {s : State} {m : Master} {off : Word} {ts : List Turn}
    (ha : s.agenda = .access m (.read off 32) :: ts)
    (hh : holds m s = false) (ho : off.toNat % 4 = 0) :
    step s = .next (hostRead off.toNat { s with agenda := ts }) := by
  simp [step, nextMove, ha, hh, accessMove, Access.legal, ho]

theorem step_write {s : State} {m : Master} {off w : Word} {ts : List Turn}
    (ha : s.agenda = .access m (.write off 32 w) :: ts) (hh : holds m s = false) (ho : off.toNat % 4 = 0) :
    step s = .next (hostWrite m off.toNat w { s with agenda := ts }) := by
  simp [step, nextMove, ha, hh, accessMove, Access.legal, ho]

theorem writeCtrl_enables {w : Word} (h : w.getLsbD 31 = false) (s : State) :
    writeCtrl w s = { s with doneIE := w.getLsbD 0, errIE := w.getLsbD 1 } :=
  if_neg (ne_true_of_eq_false h)

theorem writeStatus_eq (w : Word) (s : State) : writeStatus w s = { s with done := s.done && !w.getLsbD 1 } := by
  unfold writeStatus
  cases w.getLsbD 1 <;> simp

/-- The enables are the two low bits of `CTRL`. -/
theorem flagAt_or_flagAt (w : Word) : flagAt (w.getLsbD 0) 0 ||| flagAt (w.getLsbD 1) 1 = w &&& 3 := by
  show _ = w &&& (flagAt true 0 ||| flagAt true 1)
  refine BitVec.eq_of_getLsbD_eq fun i _ => ?_
  simp (disch := decide) only [BitVec.getLsbD_or, BitVec.getLsbD_and, getLsbD_flagAt]
  match i with
  | 0 | 1 | i + 2 => simp

/-- Settles O44: each write reaches the target of its offset. -/
theorem ctrlAndStatusWrites : Obligations.CtrlAndStatusWrites := by
  intro s m w ts hh
  refine ⟨fun ha h31 => ⟨_, step_write ha hh rfl, ?_⟩, fun ha => ?_⟩
  · have hw : hostWrite m 0x08 w { s with agenda := ts } = _ :=
      congrArg (fun t : State => { t with resp := some .writeDone }) (writeCtrl_enables h31 { s with agenda := ts })
    exact ⟨hw, hw ▸ flagAt_or_flagAt w⟩
  · rw [step_write ha hh rfl]
    exact congrArg (fun t : State => Outcome.next { t with resp := some .writeDone })
      (writeStatus_eq w { s with agenda := ts })

/-- Settles O45: the three cases of a `CMDPORT` write by `ERR` and the room in the FIFO. -/
theorem commandPortWrite : Obligations.CommandPortWrite := by
  intro s m w ts hh
  refine ⟨fun ha => ⟨fun he hl => ?_, fun he hl => ?_, fun he => ?_⟩, fun ha => step_read ha hh rfl⟩
  all_goals rw [step_write ha hh rfl]
  all_goals
    show Outcome.next (if portReady { s with agenda := ts } then
      { writeCmdPort w { s with agenda := ts } with resp := some .writeDone } else _) = _
  · simp [portReady, writeCmdPort, he, hl]
  · simp [portReady, he, Nat.not_lt.2 hl]
  · simp [portReady, writeCmdPort, he]

end Sys2Proof.Machine
end

section
/-! SUPPORT and PROOFS. What each command leaves alone (spec/20_memory.md R95, spec/60_exceptions.md R255, R261). -/

namespace Sys2Proof.Machine

open Host (Outcome)

/-! ### What no commit changes -/

@[simp] theorem commitOf_csi (i : Instr) (s : State) : (commitOf i s).csi = s.csi := by
  cases i <;> simp [commitOf, commitLoadQt, commitBlock]

@[simp] theorem commitOf_doneIE (i : Instr) (s : State) : (commitOf i s).doneIE = s.doneIE := by
  cases i <;> simp [commitOf, commitLoadQt, commitBlock]

@[simp] theorem commitOf_errIE (i : Instr) (s : State) : (commitOf i s).errIE = s.errIE := by
  cases i <;> simp [commitOf, commitLoadQt, commitBlock]

@[simp] theorem commitOf_agenda (i : Instr) (s : State) : (commitOf i s).agenda = s.agenda := by
  cases i <;> simp [commitOf, commitLoadQt, commitBlock]

@[simp] theorem commitOf_resp (i : Instr) (s : State) : (commitOf i s).resp = s.resp := by
  cases i <;> simp [commitOf, commitLoadQt, commitBlock]

/-! ### The numbered registers that are not those of the command -/

@[simp] theorem setQtv_comp (s : State) (t c : Nat) : (s.setQtv t).comp c = s.comp c := by
  unfold State.setQtv
  split <;> rfl

@[simp] theorem setQtv_compv (s : State) (t c : Nat) : (s.setQtv t).compv c = s.compv c := by
  unfold State.setQtv
  split <;> rfl

@[simp] theorem setComp_qtv (s : State) (c u : Nat) (k : CompCfg) : (s.setComp c k).qtv u = s.qtv u := by
  unfold State.setComp
  split <;> rfl

/-! ### The written spaces of R95: what a commit changes only if its command's row names it -/

section

variable {i : Instr} (s : State)

theorem commitOf_frameCfg (h : i.opcode ≠ .setFrame) :
    (commitOf i s).frameW = s.frameW ∧ (commitOf i s).frameH = s.frameH ∧ (commitOf i s).ncomp = s.ncomp ∧
      (commitOf i s).cfgValid = s.cfgValid := by
  cases i with
  | setFrame nc height width => exact absurd rfl h
  | _ => simp [commitOf, commitLoadQt, commitBlock]

theorem commitOf_comp (h : i.opcode ≠ .setComp) (c : Nat) :
    (commitOf i s).comp c = s.comp c ∧ (commitOf i s).compv c = s.compv c := by
  cases i with
  | setComp ci hs vs tq => exact absurd rfl h
  | loadQt pq tq entries => exact ⟨setQtv_comp .., setQtv_compv ..⟩
  | _ => exact ⟨rfl, rfl⟩

theorem commitOf_qt (h : i.opcode ≠ .loadQt) :
    (commitOf i s).qt = s.qt ∧ ∀ u, (commitOf i s).qtv u = s.qtv u := by
  cases i with
  | loadQt pq tq entries => exact absurd rfl h
  | setComp ci hs vs tq => exact ⟨setComp_qt .., fun _ => setComp_qtv ..⟩
  | _ => exact ⟨rfl, fun _ => rfl⟩

theorem commitOf_grid (h : i.opcode ≠ .start) :
    (commitOf i s).hmax = s.hmax ∧ (commitOf i s).vmax = s.vmax ∧ (commitOf i s).mcux = s.mcux ∧
      (commitOf i s).mcuy = s.mcuy ∧ (commitOf i s).blktotal = s.blktotal := by
  cases i with
  | start => exact absurd rfl h
  | _ => simp [commitOf, commitLoadQt, commitBlock]

theorem commitOf_samples (h : i.opcode ≠ .block) :
    (commitOf i s).plane = s.plane ∧ (commitOf i s).lastdq = s.lastdq ∧ (commitOf i s).lastblk = s.lastblk := by
  cases i with
  | block coefs => exact absurd rfl h
  | _ => simp [commitOf, commitLoadQt]

theorem commitOf_blkcnt (hb : i.opcode ≠ .block) (hs : i.opcode ≠ .start) : (commitOf i s).blkcnt = s.blkcnt := by
  cases i with
  | block coefs => exact absurd rfl hb
  | start => exact absurd rfl hs
  | _ => simp [commitOf, commitLoadQt]

theorem commitOf_outm (h : i.opcode ≠ .finish) : (commitOf i s).outm = s.outm := by
  cases i with
  | finish => exact absurd rfl h
  | _ => simp [commitOf, commitLoadQt, commitBlock]

/-- Only `START` and `FINISH` open or close a frame, and change `DONE`. -/
theorem commitOf_frameState (hs : i.opcode ≠ .start) (hf : i.opcode ≠ .finish) :
    (commitOf i s).done = s.done ∧ (commitOf i s).frameActive = s.frameActive := by
  cases i with
  | start => exact absurd rfl hs
  | finish => exact absurd rfl hf
  | _ => simp [commitOf, commitLoadQt, commitBlock]

end

/-- Settles O39: an error changes what R255 lists, and a commit the spaces of its own row. -/
theorem commandFrames : Obligations.CommandFrames := by
  intro i s t h
  rcases exec_cases i s with ⟨c, j, -, hx⟩ | ⟨-, hx⟩ <;> rw [hx, Outcome.next.injEq] at h <;> subst h
  · exact ⟨⟨rfl, rfl, rfl, rfl, rfl, rfl, rfl, rfl⟩, by simp, fun _ _ => rfl, fun _ => ⟨rfl, rfl, rfl, rfl⟩,
      fun _ _ => ⟨rfl, rfl⟩, fun _ => ⟨rfl, fun _ => rfl⟩, fun _ => ⟨rfl, rfl, rfl, rfl, rfl⟩,
      fun _ => ⟨rfl, rfl, rfl⟩, fun _ _ => rfl, fun _ => rfl, fun _ _ => ⟨rfl, by simp, by simp⟩⟩
  · refine ⟨by simp, by simp, fun he he' => by simp [he] at he', commitOf_frameCfg s, commitOf_comp s,
      commitOf_qt s, commitOf_grid s, commitOf_samples s, commitOf_blkcnt s, commitOf_outm s, fun hs hf => ?_⟩
    obtain ⟨hdone, hactive⟩ := commitOf_frameState s hs hf
    exact ⟨hdone, fun _ _ => hactive, fun _ ha => hactive ▸ ha⟩

end Sys2Proof.Machine
end

section
/-! SUPPORT and PROOFS. An enabled engine step takes one word (spec/30_encoding.md R110), a held write completes with it
(spec/20_memory.md R93), and a master's next access waits for that (R96). -/

namespace Sys2Proof.Machine

/-- Taking a word counts it; the held writes and the plan stay, and without an error so do the words behind it. -/
theorem EngineLeaves.takesWord {s u : State} (h : EngineLeaves s u) :
    u.held = s.held ∧ u.agenda = s.agenda ∧ u.csi = s.csi + 1 ∧ (u.err = false → u.fifo = s.fifo.tail) := by
  cases h with
  | error w rest v c op j hf hp hc hv =>
    rcases hv with rfl | ⟨op', hdr, n, -, -, rfl⟩ <;> exact ⟨rfl, rfl, rfl, by simp⟩
  | header w rest op hf hp hd hl hc => exact ⟨rfl, rfl, rfl, by simp [hf]⟩
  | staged w rest op hdr n hf hp hc hl => exact ⟨rfl, rfl, rfl, by simp [hf]⟩
  | oneWord w rest op hf hp hd hl hc => simp [hf]
  | lastWord w rest op hdr n v hf hp hw hl hv hc => simp [hv, hf]

/-- Where a word waits and the parser is not halted, the engine's move is no stop. -/
theorem engineTurn_of_enabled {s : State} {w : Word} {rest : List Word} (hf : s.fifo = w :: rest)
    (hp : s.ps ≠ .halted) : (∃ i v, engineTurn s = .run i v) ∨ ∃ t, engineTurn s = .next t := by
  simp only [engineTurn]
  rcases engineMove_cases s with ⟨h, -⟩ | ⟨-, h, -⟩ | ⟨-, h, -⟩ | ⟨w, rest, -, -, h⟩ | ⟨op, hdr, n, w, rest, -, -, h⟩
  · exact absurd h hp
  · simp [hf] at h
  · simp [hf] at h
  · rcases headerMove_cases w (popWord rest s) with ⟨c, op, -, hm⟩ | ⟨op, -, -, hm⟩ | ⟨op, -, -, -, hm⟩ <;>
      simp [h, hm]
  · rcases payloadMove_cases op hdr n w (popWord rest s) with ⟨c, -, hm⟩ | ⟨-, -, hm⟩ | ⟨-, -, hm⟩ <;> simp [h, hm]

/-- A step that runs a command always has a next state. -/
theorem exists_afterEngine_exec (i : Instr) (s : State) : ∃ t, afterEngine (exec i s) = .next t := by
  rcases exec_cases i s with ⟨c, j, -, hx⟩ | ⟨-, hx⟩ <;> exact ⟨_, congrArg afterEngine hx⟩

/-- Where the engine is next and has a word to take, the step is an engine step, then the release of a held write. -/
theorem step_of_engineNext {s : State} {ts : List Turn} {w : Word} {rest : List Word} (h : s.engineNext ts)
    (hf : s.fifo = w :: rest) (hp : s.ps ≠ .halted) :
    ∃ u, EngineLeaves { s with agenda := ts } u ∧ step s = .next (releaseHeld u) := by
  have hmove := nextMove_of_engineNext h (by simp [engineEnabled, hf, hp])
  obtain ⟨hnext, hrun⟩ := engineTurn_cases hmove.symm
  rcases engineTurn_of_enabled (s := { s with agenda := ts }) hf hp with ⟨i, v, hm⟩ | ⟨t, hm⟩
  · obtain ⟨t, ht⟩ := exists_afterEngine_exec i v
    obtain ⟨u, hu, rfl⟩ := hrun i v t (hmove.trans hm) ht
    exact ⟨u, hu, by simp only [step, hmove, hm, ht]⟩
  · obtain ⟨u, hu, rfl⟩ := hnext t (hmove.trans hm)
    exact ⟨u, hu, by simp only [step, hmove, hm]⟩

/-- While a write is held the FIFO is full and the engine not halted, so an engine step is enabled. -/
theorem State.PortOk.enabled_of_held {s : State} (h : s.PortOk) (hh : s.held ≠ []) :
    (∃ w rest, s.fifo = w :: rest) ∧ s.ps ≠ .halted := by
  obtain ⟨⟨-, -, ⟨hdepth, -⟩, -⟩, -, herr, hhalt, -, hfull, -⟩ := h
  have hlen := hfull hh
  refine ⟨List.exists_cons_of_length_pos (by omega), fun hp => ?_⟩
  obtain ⟨-, hnil, -⟩ := hhalt (herr.2 hp)
  exact hh hnil

/-- Settles O46: the FIFO was full, so the engine step leaves room for the held word, unless it ends in an error. -/
theorem heldWriteCompletes : Obligations.HeldWriteCompletes := by
  intro s h hport hheld hagenda
  obtain ⟨⟨w, rest, hf⟩, hp⟩ := hport.enabled_of_held (by simp [hheld])
  obtain ⟨u, hu, hstep⟩ := step_of_engineNext (.inl ⟨hagenda, rfl⟩) hf hp
  have hrel : u.PortReleasable := hu.portReleasable (s := { s with agenda := [] }) hport
  obtain ⟨huheld, -, -, hufifo⟩ := hu.takesWord
  replace huheld : u.held = [h] := huheld.trans hheld
  refine ⟨_, hstep, ?_⟩
  rcases releaseHeld_cases u with ⟨hnil, -⟩ | ⟨-, he, hr⟩ | ⟨h', hs, hcons, he, -, hr⟩ | ⟨hne, he, hfull, -⟩
  · simp [huheld] at hnil
  · rw [hr]
    exact ⟨rfl, rfl, by simp [he], fun _ => (hrel.halted he).1⟩
  · obtain ⟨rfl, rfl⟩ : h = h' ∧ hs = [] := by simpa [huheld, eq_comm] using hcons
    rw [hr]
    exact ⟨rfl, rfl, fun _ => by rw [hufifo he], by simp [he]⟩
  · have hroom := hrel.room he hne
    omega

/-- Settles O47: the engine is next while the access waits, and its step is enabled. -/
theorem hostAccessesInOrder : Obligations.HostAccessesInOrder := by
  intro s m a ts hport hholds hagenda
  have hne : s.held ≠ [] := fun hnil => by simp [holds, hnil] at hholds
  obtain ⟨⟨w, rest, hf⟩, hp⟩ := hport.enabled_of_held hne
  obtain ⟨u, hu, hstep⟩ := step_of_engineNext (.inr (.inr ⟨m, a, ts, hagenda, hholds, rfl⟩)) hf hp
  obtain ⟨-, huagenda, hucsi, -⟩ := hu.takesWord
  exact ⟨_, hstep, (releaseHeld_agenda u).trans huagenda, (releaseHeld_csi u).trans hucsi⟩

end Sys2Proof.Machine
end

section
/-! SUPPORT and PROOFS. Every step keeps the memories in canonical form and within their sizes (spec/20_memory.md R80,
spec/10_state.md R58 to R63). -/

namespace Sys2Proof.Machine

/-- A table that `LOAD_QT` accepts is one of the two. -/
theorem loadQtCheck_none_table {pq tq : BitVec 4} {s : State} (h : loadQtCheck pq tq s = none) : tq.toNat ≤ 1 := by
  unfold loadQtCheck at h
  split_ifs at h with ha hp ht
  simpa [legalTableId] using ht

theorem memoryOk_commitLoadQt {s : State} (h : s.MemoryOk) {tq : BitVec 4} (ht : tq.toNat ≤ 1)
    (entries : Vector Word 64) : (commitLoadQt tq entries s).MemoryOk := by
  obtain ⟨hqt, hplane, hdq, hblk, hout, hstg, hqtSize, hdqSize, hblkSize⟩ := h
  simp only [State.MemoryOk, commitLoadQt, setQtv_qt, setQtv_plane, setQtv_lastdq, setQtv_lastblk, setQtv_outm,
    setQtv_stg]
  refine ⟨Memory.wf_write hqt _ _, hplane, hdq, hblk, hout, hstg,
    Memory.keysIn_write hqtSize _ _ (Nat.zero_le _) ?_, hdqSize, hblkSize⟩
  rw [fromZigzag_length, qtKey]
  omega

theorem memoryOk_storeBlock {s : State} (h : s.MemoryOk) (pos : BlockPos) {d : List Int} (hd : d.length = 64) :
    (storeBlock pos d s).MemoryOk := by
  obtain ⟨hqt, hplane, hdq, hblk, hout, hstg, hqtSize, hdqSize, hblkSize⟩ := h
  exact ⟨hqt, writeBlock_wf hplane pos _, Memory.wf_write hdq 0 _, Memory.wf_write hblk 0 _, hout, hstg, hqtSize,
    Memory.keysIn_write hdqSize 0 _ (Nat.le_refl 0) (by simp [hd]),
    Memory.keysIn_write hblkSize 0 _ (Nat.le_refl 0) (by simp [blockSamples_length])⟩

theorem memoryOk_commitFinish {s : State} (h : s.MemoryOk) : (commitFinish s).MemoryOk := by
  obtain ⟨hqt, hplane, hdq, hblk, hout, hstg, hsizes⟩ := h
  exact ⟨hqt, hplane, hdq, hblk, Memory.wf_write hout 0 _, hstg, hsizes⟩

theorem memoryOk_stage {s : State} (h : s.MemoryOk) (j : Nat) (w : Word) : (stage j w s).MemoryOk := by
  obtain ⟨hqt, hplane, hdq, hblk, hout, hstg, hsizes⟩ := h
  exact ⟨hqt, hplane, hdq, hblk, hout, Memory.wf_write hstg j [w], hsizes⟩

/-- Every commit keeps the memories in order. -/
theorem memoryOk_commitOf {s : State} (h : s.MemoryOk) {i : Instr} (hi : passes i s) : (commitOf i s).MemoryOk := by
  cases i with
  | setComp ci hs vs tq => simpa [commitOf, State.MemoryOk] using h
  | loadQt pq tq entries => exact memoryOk_commitLoadQt h (loadQtCheck_none_table hi.1) entries
  | block coefs => exact memoryOk_storeBlock h _ (dequantize_length ..)
  | finish => exact memoryOk_commitFinish h
  | nop | setFrame _ _ _ | start => exact h

/-- What an engine step leaves keeps the memories in order: it writes only where it stages a word or commits. -/
theorem EngineLeaves.memoryOk {s u : State} (hu : EngineLeaves s u) (h : s.MemoryOk) : u.MemoryOk := by
  cases hu with
  | error w rest v c op j hf hp hne hv =>
    rcases hv with rfl | ⟨op', hdr, n, -, -, rfl⟩
    · exact h
    · exact memoryOk_stage h (n + 1) w
  | header w rest op hf hp hd hl hk => exact h
  | staged w rest op hdr n hf hp hk hl => exact memoryOk_stage h (n + 1) w
  | oneWord w rest op hf hp hd hl hi => exact memoryOk_commitOf (s := popWord rest s) h hi
  | lastWord w rest op hdr n v hf hp hw hl hv hi =>
    subst hv
    exact memoryOk_commitOf (s := commandComplete (stage (n + 1) w (popWord rest s)))
      (memoryOk_stage (s := popWord rest s) h (n + 1) w) hi

theorem memoryOk_releaseHeld {s : State} (h : s.MemoryOk) : (releaseHeld s).MemoryOk := by
  simpa [State.MemoryOk] using h

theorem memoryOk_hostWrite {s : State} (h : s.MemoryOk) (m : Master) (off : Nat) (w : Word) :
    (hostWrite m off w s).MemoryOk := by
  rcases hostWrite_cases m off w s with hw | hw | hw | ⟨-, -, hw⟩ | ⟨-, -, hw⟩ | hw <;> rw [hw]
  · exact memoryOk_reset
  all_goals exact h

/-- A step that has a next state keeps the memories in order. -/
theorem memoryOk_step {s t : State} (h : s.MemoryOk) (hstep : step s = .next t) : t.MemoryOk := by
  rcases step_cases hstep with ⟨ts, u, -, hu, rfl⟩ | ⟨ts, -, -, rfl⟩ | ⟨m, off, ts, -, -, -, rfl⟩ |
    ⟨m, off, w, ts, -, -, -, rfl⟩ | ⟨ts, -, rfl⟩
  · exact memoryOk_releaseHeld (hu.memoryOk h)
  · exact h
  · exact h
  · exact memoryOk_hostWrite (s := { s with agenda := ts }) h m off.toNat w
  · exact memoryOk_reset

/-- Settles O56: the sizes of `STG`, `OUTM` and `PLANE` are among the port's and the frame's rules, which a step
keeps. -/
theorem stepKeepsMemoriesCanonical : Obligations.StepKeepsMemoriesCanonical := by
  refine ⟨fun s t h hstep => memoryOk_step h hstep, fun s t hport hconfig hframe hstep => ?_⟩
  obtain ⟨-, -, -, -, -, -, -, hstg, -⟩ := stepKeepsPortRules s t hport hstep
  obtain ⟨-, hout, -, hplane⟩ := stepKeepsFrameRules s t hport hconfig hframe hstep
  exact ⟨hstg, hout, hplane⟩

end Sys2Proof.Machine
end

section
/-! SUPPORT and PROOFS. The offset map, and what an access at each kind of offset does: reserved offsets, windows,
ignored writes, refused accesses (spec/20_memory.md R81 to R91, R100, R101). -/

namespace Sys2Proof.Machine

/-! ### The offset map (R81) -/

theorem targetAt_reserved {p : Params} {off : Nat}
    (h : (0x40 ≤ off ∧ off < 0x100) ∨ (0x500 ≤ off ∧ off < 0x01000000) ∨ 0x01000000 + outmSize p ≤ off) :
    targetAt p off = .reserved := by
  unfold targetAt
  split_ifs
  · exact List.getD_eq_default _ _ (by show 16 ≤ off / 4; omega)
  · omega
  · omega
  · omega
  · rfl
  · omega
  · rfl

/-- The offsets of the four windows. -/
theorem isWindow_targetAt {p : Params} {off : Nat}
    (h : (0x100 ≤ off ∧ off < 0x500) ∨ (0x01000000 ≤ off ∧ off < 0x01000000 + outmSize p)) :
    (targetAt p off).isWindow = true := by
  unfold targetAt
  split_ifs
  · omega
  · rfl
  · rfl
  · rfl
  · omega
  · rfl
  · omega

theorem targetAt_qtWindow (p : Params) {t i : Nat} (ht : t < 2) (hi : i < 64) :
    targetAt p (0x100 + 4 * (64 * t + i)) = .qtWindow t i := by
  rw [targetAt, if_neg (by omega), if_pos (by omega)]
  congr 1 <;> omega

theorem targetAt_dqWindow (p : Params) {i : Nat} (hi : i < 64) : targetAt p (0x300 + 4 * i) = .dqWindow i := by
  rw [targetAt, if_neg (by omega), if_neg (by omega), if_pos (by omega)]
  congr 1
  omega

theorem targetAt_blkWindow (p : Params) {i : Nat} (hi : i < 64) : targetAt p (0x400 + 4 * i) = .blkWindow i := by
  rw [targetAt, if_neg (by omega), if_neg (by omega), if_neg (by omega), if_pos (by omega)]
  congr 1
  omega

theorem targetAt_outWindow {p : Params} {a : Nat} (ha : a < outmSize p) :
    targetAt p (0x01000000 + a) = .outWindow a := by
  rw [targetAt, if_neg (by omega), if_neg (by omega), if_neg (by omega), if_neg (by omega), if_neg (by omega),
    if_pos (by omega), Nat.add_sub_cancel_left]

/-- Each of the three registers that a write has an effect on has one offset. -/
theorem offset_of_write_effect {p : Params} {off : Nat} (ho : off % 4 = 0)
    (h : targetAt p off ∈ [Target.ctrl, .status, .cmdport]) : off = 0x08 ∨ off = 0x0C ∨ off = 0x14 := by
  have hregs : ∀ k < 64, registerMap.getD k .reserved ∈ [Target.ctrl, .status, .cmdport] → k = 2 ∨ k = 3 ∨ k = 5 := by
    decide
  unfold targetAt at h
  split_ifs at h with hreg
  · have := hregs (off / 4) (by omega) h
    omega
  all_goals simp at h

/-! ### Accesses (R85 to R91) -/

theorem hostWrite_ignored {m : Master} {off : Nat} {w : Word} {s : State}
    (h : targetAt s.params off ∉ [Target.ctrl, .status, .cmdport]) :
    hostWrite m off w s = { s with resp := some .writeDone } := by
  unfold hostWrite
  cases ht : targetAt s.params off
  case ctrl | status | cmdport => simp [ht] at h
  all_goals rfl

/-- A write of any other offset than those of `CTRL`, `STATUS` and `CMDPORT` is ignored. -/
theorem step_write_ignored {s : State} {m : Master} {off w : Word} {ts : List Turn}
    (ha : s.agenda = .access m (.write off 32 w) :: ts) (hh : holds m s = false) (ho : off.toNat % 4 = 0)
    (hctrl : off.toNat ≠ 0x08) (hstatus : off.toNat ≠ 0x0C) (hport : off.toNat ≠ 0x14) :
    step s = .next { s with agenda := ts, resp := some .writeDone } := by
  rw [step_write ha hh ho, hostWrite_ignored (s := { s with agenda := ts })]
  intro h
  rcases offset_of_write_effect ho h with h | h | h <;> contradiction

/-- What a read answers does not depend on what is planned. -/
@[simp] theorem readOffset_agenda (s : State) (ts : List Turn) (off : Nat) :
    readOffset { s with agenda := ts } off = readOffset s off := rfl

theorem step_illegal {s : State} {m : Master} {a : Access} {ts : List Turn} (ha : s.agenda = .access m a :: ts)
    (hh : holds m s = false) (hl : ¬ a.legal = true) : step s = .refused (.busError a) := by
  simp [step, nextMove, ha, hh, accessMove, hl]

theorem legal_read_iff (off : Word) (width : Nat) :
    (Access.read off width).legal = true ↔ width = 32 ∧ off.toNat % 4 = 0 := by
  simp [Access.legal]

theorem legal_write_iff (off : Word) (width : Nat) (w : Word) :
    (Access.write off width w).legal = true ↔ width = 32 ∧ off.toNat % 4 = 0 := by
  simp [Access.legal]

/-! ### What the windows return (R82 to R84, R100, R101) -/

theorem readTarget_window {s : State} {t : Target} (h : t.isWindow = true) : readTarget s t = windowWord s t := by
  cases t
  case qtWindow | dqWindow | blkWindow | outWindow => rfl
  all_goals simp [Target.isWindow] at h

theorem readOffset_busy {s : State} {off : Nat} (h : (targetAt s.params off).isWindow = true) (hb : s.busy = true) :
    readOffset s off = Config.freeBits 32 s.draws 0 := by
  rw [readOffset, readTarget_window h, windowWord, if_pos hb]

theorem readOffset_idle {s : State} {off : Nat} {t : Target} (ht : targetAt s.params off = t)
    (h : t.isWindow = true) (hb : s.busy = false) : readOffset s off = idleWindowWord s t := by
  rw [readOffset, ht, readTarget_window h, windowWord, if_neg (by simp [hb])]

theorem Memory.readOrFree_some {n : Nat} {m : Memory n} {a : Nat} {v : BitVec n} (h : m.read a = some v)
    (draw index : Nat) : m.readOrFree a draw index = v := by
  rw [Memory.readOrFree, h, Option.getD_some]

theorem Memory.readOrFree_none {n : Nat} {m : Memory n} {a : Nat} (h : m.read a = none) (draw index : Nat) :
    m.readOrFree a draw index = Config.freeBits n draw index := by
  rw [Memory.readOrFree, h, Option.getD_none]

theorem idleWindowWord_qtWindow_valid {s : State} {t : Nat} (h : s.qtv t = true) (i : Nat) :
    idleWindowWord s (.qtWindow t i) = (s.qt.readOrFree (qtKey t i) s.draws 0).setWidth 32 := if_pos h

theorem idleWindowWord_qtWindow_invalid {s : State} {t : Nat} (h : s.qtv t = false) (i : Nat) :
    idleWindowWord s (.qtWindow t i) = Config.freeBits 32 s.draws 0 := if_neg (ne_true_of_eq_false h)

theorem idleWindowWord_dqWindow (s : State) (i : Nat) :
    idleWindowWord s (.dqWindow i) = s.lastdq.readOrFree i s.draws 0 := rfl

theorem idleWindowWord_blkWindow (s : State) (i : Nat) :
    idleWindowWord s (.blkWindow i) = (s.lastblk.readOrFree i s.draws 0).setWidth 32 := rfl

/-- A word of the output window is four bytes, the one at the lowest address in the lowest bits (R100). -/
theorem idleWindowWord_outWindow (s : State) (a : Nat) :
    idleWindowWord s (.outWindow a) =
      s.outm.readOrFree (a + 3) s.draws 3 ++ s.outm.readOrFree (a + 2) s.draws 2 ++
        s.outm.readOrFree (a + 1) s.draws 1 ++ s.outm.readOrFree a s.draws 0 := by
  rw [← BitVec.setWidth_eq (_ ++ _ ++ _ ++ _), BitVec.setWidth_append_append_append_eq_shiftLeft_setWidth_or]
  simp only [idleWindowWord, outByte, placeField, BitVec.setWidth_eq, Nat.reduceAdd, Nat.add_zero]

theorem extractLsb'_bytes (b3 b2 b1 b0 : Byte) {k : Nat} (hk : k < 4) :
    (b3 ++ b2 ++ b1 ++ b0).extractLsb' (8 * k) 8 = [b0, b1, b2, b3].getD k 0 := by
  match k, hk with
  | 0, _ | 1, _ | 2, _ | 3, _ =>
    simp (disch := decide) only [BitVec.extractLsb'_append_eq_of_le, BitVec.extractLsb'_append_eq_of_add_le]
    exact BitVec.extractLsb'_eq_self

/-! ### The statements -/

/-- Settles O48: a read leaves what `hostRead` does; a write is ignored away from the three offsets, and `CMDPORT` and
`STATUS` are the cases of O45 and O44. -/
theorem sideEffectsOfAccesses : Obligations.SideEffectsOfAccesses := by
  intro s m off ts hh ho
  refine ⟨fun ha => ⟨_, step_read ha hh ho, rfl⟩, fun w ha hctrl hstatus hport => ?_, fun w ha he hl => ?_,
    fun w ha h31 => ?_, fun w ha h1 => ?_⟩
  · exact step_write_ignored ha hh ho (fun h => hctrl (BitVec.eq_of_toNat_eq h))
      (fun h => hstatus (BitVec.eq_of_toNat_eq h)) (fun h => hport (BitVec.eq_of_toNat_eq h))
  · obtain ⟨happend, -⟩ := (commandPortWrite s m w ts hh).1 ha
    exact ⟨_, happend he hl, rfl⟩
  · have hw : writeCtrl w { s with agenda := ts } = resetEngine { s with agenda := ts } := if_pos h31
    rw [step_write ha hh rfl]
    exact congrArg (fun t : State => Host.Outcome.next { t with resp := some .writeDone }) hw
  · obtain ⟨-, hdone⟩ := ctrlAndStatusWrites s m w ts hh
    exact ⟨_, hdone ha, by simp [h1]⟩

/-- Settles O49: nothing stands at a reserved offset, and none of them is an offset whose writes have an effect. -/
theorem reservedOffsets : Obligations.ReservedOffsets := by
  intro s m off ts hh ho hr
  refine ⟨fun ha => ?_, fun w ha => ?_⟩
  · rw [step_read ha hh ho, hostRead, readOffset, targetAt_reserved hr]
    rfl
  · exact step_write_ignored ha hh ho (by omega) (by omega) (by omega)

/-- Settles O50: a legal access is performed, and one that is not legal is refused. -/
theorem illegalAccessRefused : Obligations.IllegalAccessRefused := by
  intro s m off width ts hh
  refine ⟨fun ha => ⟨?_, fun hn => ?_⟩, fun w ha => ⟨?_, fun hn => ?_⟩⟩
  · rintro ⟨rfl, ho⟩
    exact ⟨_, step_read ha hh ho⟩
  · exact step_illegal ha hh fun hl => hn ((legal_read_iff off width).1 hl)
  · rintro ⟨rfl, ho⟩
    exact ⟨_, step_write ha hh ho⟩
  · exact step_illegal ha hh fun hl => hn ((legal_write_iff off width w).1 hl)

/-- Settles O54: every window offset reads as the draw of a busy engine, and counts it. -/
theorem busyWindowIsFree : Obligations.BusyWindowIsFree := by
  intro s m off ts hh ho hb hw ha
  have hwin : (targetAt s.params off.toNat).isWindow = true := isWindow_targetAt hw
  rw [step_read ha hh ho, hostRead, readOffset_agenda, readOffset_busy hwin hb, if_pos hwin]

/-- Settles O53: each offset names its window's cell, and the idle word of that window is the cell or a free value. -/
theorem windowWords : Obligations.WindowWords := by
  refine ⟨fun s hb => ⟨fun t i v ht hi hq hr => ?_, fun t i ht hi hq => ?_, fun i v hi hr => ?_, fun i hi hr => ?_,
    fun i v hi hr => ?_, fun i hi hr => ?_, fun a k _ ha hk => ?_, fun a b0 b1 b2 b3 _ ha h0 h1 h2 h3 => ?_⟩,
    fun s m off w ts hh ho hw ha => ?_⟩
  · rw [readOffset_idle (targetAt_qtWindow _ ht hi) rfl hb, idleWindowWord_qtWindow_valid hq,
      Memory.readOrFree_some hr, BitVec.toNat_setWidth_of_le (by decide)]
  · rw [readOffset_idle (targetAt_qtWindow _ ht hi) rfl hb, idleWindowWord_qtWindow_invalid hq]
  · rw [readOffset_idle (targetAt_dqWindow _ hi) rfl hb, idleWindowWord_dqWindow, Memory.readOrFree_some hr]
  · rw [readOffset_idle (targetAt_dqWindow _ hi) rfl hb, idleWindowWord_dqWindow, Memory.readOrFree_none hr]
  · rw [readOffset_idle (targetAt_blkWindow _ hi) rfl hb, idleWindowWord_blkWindow, Memory.readOrFree_some hr,
      BitVec.toNat_setWidth_of_le (by decide)]
  · rw [readOffset_idle (targetAt_blkWindow _ hi) rfl hb, idleWindowWord_blkWindow, Memory.readOrFree_none hr,
      BitVec.toNat_setWidth_of_le (by decide)]
  · rw [readOffset_idle (targetAt_outWindow ha) rfl hb, idleWindowWord_outWindow, extractLsb'_bytes _ _ _ _ hk]
    match k, hk with
    | 0, _ | 1, _ | 2, _ | 3, _ => rfl
  · rw [readOffset_idle (targetAt_outWindow ha) rfl hb, idleWindowWord_outWindow, Memory.readOrFree_some h0,
      Memory.readOrFree_some h1, Memory.readOrFree_some h2, Memory.readOrFree_some h3]
  · exact step_write_ignored ha hh ho (by omega) (by omega) (by omega)

end Sys2Proof.Machine
end

section
/-! SUPPORT and PROOFS. The decoder and the encoder agree (spec/30_encoding.md R111 to R122, R127): a header word's row,
what a decoded stream is made of, and the command that each header and payload stand for. -/

namespace Sys2Proof

/-! ### Header words (R111, R122, R123) -/

theorem opcodeOfByte_eq_some_iff (b : BitVec 8) (op : Opcode) : opcodeOfByte b = some op ↔ b = op.code := by
  constructor
  · intro h
    apply BitVec.eq_of_toNat_eq
    unfold opcodeOfByte at h
    split at h <;> cases h <;> assumption
  · rintro rfl
    cases op <;> rfl

theorem opcodeOfByte_reserved {b : BitVec 8} (h : 7 ≤ b.toNat) : opcodeOfByte b = none := by
  unfold opcodeOfByte
  split
  case h_8 => rfl
  all_goals omega

theorem decodeHeader_reserved {w : Word} (h : 7 ≤ (opByte w).toNat) : decodeHeader w = .illegalOpcode (opByte w) := by
  simp only [decodeHeader, opcodeOfByte_reserved h]

/-- A header word with a legal opcode, as its reserved bits say (R124). -/
theorem decodeHeader_of_opByte {w : Word} {op : Opcode} (h : opByte w = op.code) :
    decodeHeader w = if w &&& op.resMask = 0 then .ok op else .reservedBits op := by
  simp only [decodeHeader, (opcodeOfByte_eq_some_iff _ op).2 h]

theorem decodeHeader_eq_ok_iff_opByte (w : Word) (op : Opcode) :
    decodeHeader w = .ok op ↔ opByte w = op.code ∧ w &&& op.resMask = 0 := by
  constructor
  · intro h
    unfold decodeHeader at h
    split at h
    · cases h
    · next op' hop =>
      split_ifs at h with hres
      cases h
      exact ⟨(opcodeOfByte_eq_some_iff _ _).1 hop, hres⟩
  · rintro ⟨hop, hres⟩
    rw [decodeHeader_of_opByte hop, if_pos hres]

/-- `MATCH` is the opcode over 24 zero bits. -/
theorem matchWord_eq_append (op : Opcode) : op.matchWord = op.code ++ 0#24 := by cases op <;> rfl

/-- `MASK` has every opcode bit, and `RESMASK` none; the others are the same. -/
theorem mask_eq_append (op : Opcode) :
    op.mask = BitVec.allOnes 8 ++ bits op.mask 0 24 ∧ op.resMask = 0#8 ++ bits op.mask 0 24 := by
  cases op <;> exact ⟨rfl, rfl⟩

theorem eq_opByte_append (w : Word) : w = opByte w ++ bits w 0 24 :=
  (BitVec.extractLsb'_append_extractLsb' (len := 24) (w := 8)).symm

theorem append_inj {m n : Nat} {a b : BitVec m} {c d : BitVec n} : a ++ c = b ++ d ↔ a = b ∧ c = d := by
  constructor
  · intro h
    have hlow : c = d := by
      simpa only [BitVec.extractLsb'_append_eq_right] using congrArg (BitVec.extractLsb' 0 n) h
    subst hlow
    exact ⟨(BitVec.append_left_inj c).1 h, rfl⟩
  · rintro ⟨rfl, rfl⟩
    rfl

/-- R122: a header word selects the row with `(w and MASK) = MATCH`. -/
theorem decodeHeader_eq_ok_iff (w : Word) (op : Opcode) :
    decodeHeader w = .ok op ↔ w &&& op.mask = op.matchWord := by
  obtain ⟨hmask, hres⟩ := mask_eq_append op
  have hrow : w &&& op.mask = opByte w ++ (bits w 0 24 &&& bits op.mask 0 24) := by
    conv_lhs => rw [eq_opByte_append w, hmask, BitVec.and_append, BitVec.and_allOnes]
  have hlow : w &&& op.resMask = 0#8 ++ (bits w 0 24 &&& bits op.mask 0 24) := by
    conv_lhs => rw [eq_opByte_append w, hres, BitVec.and_append, BitVec.and_zero]
  have hzero : (0 : Word) = 0#8 ++ 0#24 := rfl
  rw [decodeHeader_eq_ok_iff_opByte, hrow, hlow, matchWord_eq_append, append_inj, hzero, append_inj]
  simp only [true_and]

/-- Settles O4: the rows are `decodeHeader_eq_ok_iff`, one opcode each. -/
theorem headerWordSelectsItsRow : Obligations.HeaderWordSelectsItsRow :=
  ⟨fun w => ⟨decodeHeader_eq_ok_iff w .nop, decodeHeader_eq_ok_iff w .setFrame, decodeHeader_eq_ok_iff w .setComp,
    decodeHeader_eq_ok_iff w .loadQt, decodeHeader_eq_ok_iff w .start, decodeHeader_eq_ok_iff w .block,
    decodeHeader_eq_ok_iff w .finish⟩, rfl, rfl, rfl, rfl, rfl, rfl, rfl⟩

/-! ### Streams of words (R112, R121, R127) -/

/-- What decodes to a command is a header word of a row, as many payload words as its opcode asks, and the rest. -/
theorem decode_eq_ok_iff (ws : List Word) (i : Instr) (rest : List Word) :
    decode ws = .ok i rest ↔ ∃ w p op, ws = w :: (p ++ rest) ∧ decodeHeader w = .ok op ∧ p.length = op.len - 1 ∧
      i = assemble op w p := by
  constructor
  · intro h
    rcases ws with _ | ⟨w, tail⟩
    · cases h
    · simp only [decode] at h
      split at h
      · cases h
      · cases h
      · next op hop =>
        split_ifs at h with hlen
        obtain ⟨rfl, rfl⟩ := Decoded.ok.inj h
        exact ⟨w, tail.take (op.len - 1), op, by rw [List.take_append_drop], hop,
          List.length_take_of_le (Nat.not_lt.1 hlen), rfl⟩
  · rintro ⟨w, p, op, rfl, hop, hlen, rfl⟩
    simp [decode, hop, ← hlen]

/-- Settles O2: the encoded header selects the command's row, and the payload has that row's length. -/
theorem decodeOfEncodeIsIdentity : Obligations.DecodeOfEncodeIsIdentity := fun i rest =>
  (decode_eq_ok_iff _ i rest).2 ⟨encodeHeader i, encodePayload i, i.opcode, rfl, Machine.decodeHeader_encodeHeader i,
    encodePayload_length i, (Machine.assemble_encode i).symm⟩

@[simp] theorem opcode_assemble (op : Opcode) (w : Word) (p : List Word) : (assemble op w p).opcode = op := by
  cases op <;> rfl

/-- The command that a header and a payload make has that payload. -/
theorem encodePayload_assemble {op : Opcode} {p : List Word} (w : Word) (h : p.length = op.len - 1) :
    encodePayload (assemble op w p) = p := by
  cases op with
  | nop | setComp | start | finish => exact (List.eq_nil_of_length_eq_zero h).symm
  | loadQt | block => exact payload64_of_length h
  | setFrame =>
    obtain ⟨d, rfl⟩ := List.length_eq_one_iff.1 h
    show [placeField (heightField d) 16 ||| placeField (widthField d) 0] = [d]
    rw [Machine.halves_eq_append]
    exact congrArg (fun x => [x]) (BitVec.extractLsb'_append_extractLsb' (len := 16) (w := 16))

/-- The command that a header of a row makes has that header: `MATCH` and the fields are all of the word. -/
theorem encodeHeader_assemble {op : Opcode} {w : Word} (p : List Word) (h : decodeHeader w = .ok op) :
    encodeHeader (assemble op w p) = w := by
  rw [decodeHeader_eq_ok_iff] at h
  have hbit : ∀ k, (w.getLsbD k && op.mask.getLsbD k) = op.matchWord.getLsbD k := fun k => by
    rw [← BitVec.getLsbD_and, h]
  cases op with
  | nop | start | block | finish => exact (BitVec.and_allOnes (x := w) ▸ h).symm
  | setFrame | setComp | loadQt =>
    simp only [assemble, encodeHeader, placeField, ncField, ciField, hsField, vsField, tqField, pqField, bits]
    refine BitVec.eq_of_getLsbD_eq fun k hk => ?_
    have hk' := hbit k
    interval_cases k <;> simp_all [Opcode.mask, Opcode.matchWord]

/-- Settles O3: both parts of the stream are those of the command they make. -/
theorem encodeOfDecodeIsIdentity : Obligations.EncodeOfDecodeIsIdentity := by
  intro ws i rest h
  obtain ⟨w, p, op, rfl, hop, hlen, rfl⟩ := (decode_eq_ok_iff ws i rest).1 h
  rw [encode, encodeHeader_assemble p hop, encodePayload_assemble w hlen, List.cons_append]

/-- Settles O5: a decoded stream is the command's encoding and the rest. -/
theorem commandLengthFromOpcode : Obligations.CommandLengthFromOpcode := by
  refine ⟨fun ws i rest h => ?_, rfl, rfl, rfl, rfl, rfl, rfl, rfl⟩
  rw [← encodeOfDecodeIsIdentity ws i rest h, List.length_append, encode_length]

/-- Settles O1: each stream is evaluated. -/
theorem writtenWordsDecode : Obligations.WrittenWordsDecode := by
  refine ⟨?_, ?_, ?_, ?_, ?_, ?_, ?_, ?_, ?_, ?_, ?_⟩ <;> decide

end Sys2Proof
end

section
/-! SUPPORT and PROOFS. The checks of a command: the words, fields and states that pass each of them, and what a command
comes to by its first check that fails (spec/30_encoding.md R110, R120, R125, R128). -/

namespace Sys2Proof.Machine

/-! ### Payload words (R119, R120, spec/40_tables.md R144, spec/42_block.md R192) -/

/-- The upper bits of a word, taken as a field or shifted down. -/
theorem ushiftRight_eq_setWidth_iff (w : Word) {lo len : Nat} (h : lo + len = 32) (v : BitVec len) :
    w >>> lo = v.setWidth 32 ↔ bits w lo len = v := by
  have hshift : w >>> lo = (bits w lo len).setWidth 32 := by
    refine BitVec.eq_of_getLsbD_eq fun k hk => ?_
    by_cases hk' : k < len
    · simp [hk, hk']
    · simp [hk', BitVec.getLsbD_of_ge w (lo + k) (by omega)]
  rw [hshift]
  refine ⟨fun hv => ?_, fun hv => by rw [hv]⟩
  have := congrArg (BitVec.setWidth len) hv
  rwa [BitVec.setWidth_setWidth_of_le _ (by omega), BitVec.setWidth_setWidth_of_le _ (by omega), BitVec.setWidth_eq,
    BitVec.setWidth_eq] at this

theorem coefCheck_eq_none_iff_bits (w : Word) :
    coefCheck w = none ↔ bits w 15 17 = 0 ∨ bits w 15 17 = BitVec.allOnes 17 := by
  simp [coefCheck, or_iff_not_imp_left]

theorem coefCheck_eq_none_iff (w : Word) : coefCheck w = none ↔ coefWordLegal w = true := by
  rw [coefCheck_eq_none_iff_bits, coefWordLegal, Bool.or_eq_true, beq_iff_eq, beq_iff_eq]
  exact or_congr (ushiftRight_eq_setWidth_iff w rfl 0).symm (ushiftRight_eq_setWidth_iff w rfl (BitVec.allOnes 17)).symm

/-- The legal coefficient words, as numbers: the lowest and the highest 32768. -/
theorem coefCheck_eq_none_iff_toNat (w : Word) :
    coefCheck w = none ↔ w.toNat < 32768 ∨ 2 ^ 32 - 32768 ≤ w.toNat := by
  have hw := w.isLt
  rw [coefCheck_eq_none_iff_bits, ← BitVec.toNat_inj, ← BitVec.toNat_inj, BitVec.extractLsb'_toNat,
    BitVec.toNat_allOnes, Nat.shiftRight_eq_div_pow]
  simp only [BitVec.ofNat_eq_ofNat, BitVec.toNat_ofNat]
  omega

/-- Settles O7: a legal word is that of its two's-complement value, and a coefficient's value is that of its low
half. -/
theorem coefficientWordLegality : Obligations.CoefficientWordLegality := by
  intro w
  refine ⟨?_, fun h => ?_, fun v hlo hhi => ?_⟩
  · rw [coefCheck_eq_none_iff_toNat]
    constructor
    · intro h
      have hw := w.isLt
      refine ⟨w.toInt, ?_, ?_, (BitVec.ofInt_toInt).symm⟩ <;> rw [BitVec.toInt_eq_toNat_cond] <;> split_ifs <;> omega
    · rintro ⟨v, hlo, hhi, rfl⟩
      rw [BitVec.toNat_ofInt]
      omega
  · obtain ⟨c, hc⟩ := Option.ne_none_iff_exists'.1 h
    rw [hc, coefCheck_cause hc]
  · rw [coefValue, BitVec.toInt_eq_toNat_bmod, BitVec.extractLsb'_toNat, BitVec.toNat_ofInt, Int.bmod_def]
    simp only [Nat.shiftRight_zero, Nat.reducePow, Nat.cast_ofNat, Int.natCast_emod]
    omega

theorem entryCheck_eq_none_iff {pq : BitVec 4} (h : pq = 0 ∨ pq = 1) (w : Word) :
    entryCheck pq w = none ↔ entryWordLegal pq w = true := by
  rcases h with rfl | rfl
  · simpa [entryCheck, entryWordLegal] using (ushiftRight_eq_setWidth_iff w (lo := 8) rfl 0).symm
  · simpa [entryCheck, entryWordLegal] using (ushiftRight_eq_setWidth_iff w (lo := 16) rfl 0).symm

/-! ### Fields and states that pass a header check (R125) -/

theorem ite_some_eq_none_iff {α : Type} {p : Prop} [Decidable p] {c : α} {x : Option α} :
    (if p then some c else x) = none ↔ ¬p ∧ x = none := by
  split_ifs with h <;> simp [h]

theorem legalCount_iff (nc : BitVec 4) : legalCount nc = true ↔ nc = 1 ∨ nc = 3 := by
  revert nc
  decide

theorem legalPrecision_iff (pq : BitVec 4) : legalPrecision pq = true ↔ pq = 0 ∨ pq = 1 := by
  revert pq
  decide

theorem legalTableId_eq (tq : BitVec 4) : legalTableId tq = tableIdLegal tq := by
  revert tq
  decide

theorem legalFactor_eq (f : BitVec 4) : legalFactor f = factorLegal f := by simp [legalFactor, factorLegal]

theorem setFrameCheck_eq_none_iff (nc : BitVec 4) (s : State) :
    setFrameCheck nc s = none ↔ s.frameActive = false ∧ (nc = 1 ∨ nc = 3) := by
  simp [setFrameCheck, ite_some_eq_none_iff, legalCount_iff]

theorem dimensionCheck_eq_none_iff (p : Params) (width height : BitVec 16) :
    dimensionCheck p width height = none ↔
      (height ≠ 0 ∧ width ≠ 0) ∧ width.toNat ≤ p.maxFrameW ∧ height.toNat ≤ p.maxFrameH := by
  have hzero : ∀ v : BitVec 16, v ≠ 0 ↔ v.toNat ≠ 0 := fun v => not_congr BitVec.toNat_eq
  rw [dimensionCheck, ite_some_eq_none_iff, hzero, hzero, and_iff_left rfl]
  omega

theorem setCompCheck_eq_none_iff (ci : BitVec 2) (hs vs tq : BitVec 4) (s : State) :
    setCompCheck ci hs vs tq s = none ↔ s.frameActive = false ∧ ci ≠ 3 ∧
      (factorLegal hs = true ∧ factorLegal vs = true) ∧ tableIdLegal tq = true := by
  simp [setCompCheck, ite_some_eq_none_iff, legalFactor_eq, legalTableId_eq]

theorem loadQtCheck_eq_none_iff (pq tq : BitVec 4) (s : State) :
    loadQtCheck pq tq s = none ↔ s.frameActive = false ∧ (pq = 0 ∨ pq = 1) ∧ tableIdLegal tq = true := by
  simp [loadQtCheck, ite_some_eq_none_iff, legalPrecision_iff, legalTableId_eq]

theorem startCheck_eq_none_iff (s : State) :
    startCheck s = none ↔ s.frameActive = false ∧ s.cfgValid = true ∧
      ∀ c < s.ncomp.toNat, s.compv c = true ∧ s.qtv (s.comp c).tq.toNat = true := by
  refine ⟨startCheck_none, ?_⟩
  rintro ⟨hactive, hcfg, hcomps⟩
  simpa [startCheck, ite_some_eq_none_iff, hactive, hcfg, forall_and] using hcomps

theorem blockCheck_eq_none_iff (s : State) :
    blockCheck s = none ↔ s.frameActive = true ∧ s.blkcnt.toNat < s.blktotal.toNat := by
  simp [blockCheck]

theorem finishCheck_eq_none_iff (s : State) :
    finishCheck s = none ↔ s.frameActive = true ∧ s.blkcnt = s.blktotal := by
  simp [finishCheck]

/-! ### Well-formed commands (R128) -/

/-- What a command asks of the state alone: the frame state, the frame maxima, the configuration and the tables. -/
def admits (i : Instr) (s : State) : Prop :=
  match i with
  | .nop => True
  | .setFrame _ height width =>
    s.frameActive = false ∧ width.toNat ≤ s.params.maxFrameW ∧ height.toNat ≤ s.params.maxFrameH
  | .setComp _ _ _ _ | .loadQt _ _ _ => s.frameActive = false
  | .start =>
    s.frameActive = false ∧ s.cfgValid = true ∧
      ∀ c < s.ncomp.toNat, s.compv c = true ∧ s.qtv (s.comp c).tq.toNat = true
  | .block _ => s.frameActive = true ∧ s.blkcnt.toNat < s.blktotal.toNat
  | .finish => s.frameActive = true ∧ s.blkcnt = s.blktotal

/-- A command passes its checks when its own fields are legal and the state admits it. -/
theorem passes_iff_wf_and_admits (i : Instr) (s : State) : passes i s ↔ i.wf = true ∧ admits i s := by
  cases i with
  | nop => simp [passes, Instr.wf, admits]
  | setFrame nc height width =>
    simp only [passes, Instr.wf, admits, setFrameCheck_eq_none_iff, dimensionCheck_eq_none_iff, Bool.and_eq_true,
      Bool.or_eq_true, beq_iff_eq, bne_iff_ne]
    tauto
  | setComp ci hs vs tq =>
    simp only [passes, Instr.wf, admits, setCompCheck_eq_none_iff, Bool.and_eq_true, bne_iff_ne]
    tauto
  | loadQt pq tq entries =>
    simp only [passes, Instr.wf, admits, loadQtCheck_eq_none_iff, firstBad_none_iff, Bool.and_eq_true, Bool.or_eq_true,
      beq_iff_eq, List.all_eq_true]
    constructor
    · rintro ⟨⟨hactive, hpq, htq⟩, hentries⟩
      exact ⟨⟨⟨hpq, htq⟩, fun w hw => (entryCheck_eq_none_iff hpq w).1 (hentries w hw)⟩, hactive⟩
    · rintro ⟨⟨⟨hpq, htq⟩, hentries⟩, hactive⟩
      exact ⟨⟨hactive, hpq, htq⟩, fun w hw => (entryCheck_eq_none_iff hpq w).2 (hentries w hw)⟩
  | start => simp only [passes, Instr.wf, admits, startCheck_eq_none_iff, true_and]
  | block coefs =>
    simp only [passes, Instr.wf, admits, blockCheck_eq_none_iff, firstBad_none_iff, coefCheck_eq_none_iff,
      List.all_eq_true]
    exact and_comm
  | finish => simp only [passes, Instr.wf, admits, finishCheck_eq_none_iff, true_and]

/-- Settles O9: the premises of each command's clause are what it asks of the state. -/
theorem wellFormedCommandsPass : Obligations.WellFormedCommandsPass := by
  intro i s
  have haccepts : s.accepts i ↔ i.wf = true ∧ admits i s := (passes_iff i s).symm.trans (passes_iff_wf_and_admits i s)
  refine ⟨fun h => (haccepts.1 h).1, fun hwf => ?_⟩
  cases i with
  | nop => exact haccepts.2 ⟨hwf, trivial⟩
  | setComp | loadQt => exact fun hactive => haccepts.2 ⟨hwf, hactive⟩
  | block | finish => exact fun hactive hcount => haccepts.2 ⟨hwf, hactive, hcount⟩
  | setFrame | start => exact fun hactive h h' => haccepts.2 ⟨hwf, hactive, h, h'⟩

/-! ### What a command comes to -/

/-- A command whose header passes raises the error of its first payload word that fails. -/
theorem exec_of_firstBad {i : Instr} {s : State} {j : Nat} {c : Cause}
    (hh : headerCheck i.opcode (encodeHeader i) s = none)
    (hp : firstBad (fun w => payloadCheck i.opcode (encodeHeader i) w s.params) 1 (encodePayload i) = some (j, c)) :
    exec i s = .next (raiseError c i.opcode.code j s) := by
  cases i with
  | nop | setComp | start | finish => cases hp
  | setFrame nc height width =>
    simp only [headerCheck, Instr.opcode, ncField_setFrame] at hh
    simp only [encodePayload, firstBad, payloadCheck, Instr.opcode, BitVec.shiftLeft_zero, widthField_dim,
      heightField_dim] at hp
    simp only [exec, execSetFrame, hh]
    cases hd : dimensionCheck s.params width height with
    | none => simp [hd] at hp
    | some d =>
      obtain ⟨rfl, rfl⟩ : 1 = j ∧ d = c := by simpa [hd] using hp
      rfl
  | loadQt pq tq entries =>
    simp only [headerCheck, Instr.opcode, pqField_loadQt, tqField_loadQt] at hh
    simp only [encodePayload, payloadCheck, Instr.opcode, pqField_loadQt] at hp
    simp only [exec, execLoadQt, hh, hp, Instr.opcode]
  | block coefs =>
    simp only [headerCheck, Instr.opcode] at hh
    simp only [encodePayload, payloadCheck, Instr.opcode] at hp
    simp only [exec, execBlock, hh, hp, Instr.opcode]

/-- A command is turned away by its header, or by its first payload word that fails, or is accepted and commits. -/
theorem exec_turnedAway_or_accepted (i : Instr) (s : State) :
    (∃ c, headerCheck i.opcode (encodeHeader i) s = some c ∧ exec i s = .next (raiseError c i.opcode.code 0 s)) ∨
    (∃ j c, headerCheck i.opcode (encodeHeader i) s = none ∧
      firstBad (fun w => payloadCheck i.opcode (encodeHeader i) w s.params) 1 (encodePayload i) = some (j, c) ∧
      exec i s = .next (raiseError c i.opcode.code j s)) ∨
    (s.accepts i ∧ exec i s = .next (commitOf i s)) := by
  cases hh : headerCheck i.opcode (encodeHeader i) s with
  | some c => exact .inl ⟨c, rfl, exec_of_headerCheck hh⟩
  | none =>
    cases hp : firstBad (fun w => payloadCheck i.opcode (encodeHeader i) w s.params) 1 (encodePayload i) with
    | some jc => exact .inr (.inl ⟨jc.1, jc.2, rfl, rfl, exec_of_firstBad hh hp⟩)
    | none =>
      have haccepts : s.accepts i := ⟨hh, (firstBad_none_iff 1 _).1 hp⟩
      exact .inr (.inr ⟨haccepts, exec_of_passes ((passes_iff i s).2 haccepts)⟩)

theorem payloadCheck_eq_some {op : Opcode} {hdr w : Word} {p : Params} {c : Cause}
    (h : payloadCheck op hdr w p = some c) : c = .invalidDimension ∨ c = .outOfRangeField := by
  cases op with
  | nop | setComp | start | finish => cases h
  | loadQt => exact .inr (entryCheck_cause h)
  | block => exact .inr (coefCheck_cause h)
  | setFrame =>
    simp only [payloadCheck, dimensionCheck] at h
    split_ifs at h
    exact .inl (Option.some.inj h).symm

/-- Of a command sent as the duties ask, the header fails neither for a missing table nor for the frame state, but for a
`START` inside a frame. -/
theorem headerCheck_of_dutiful {op : Opcode} {hdr : Word} {s : State} {c : Cause} (hd : dutifulCommand op s = true)
    (h : headerCheck op hdr s = some c) :
    c ≠ .undefinedQt ∧ (c = .sequence → op = .start ∧ s.frameActive = true) := by
  obtain ⟨-, hduty⟩ := Bool.and_eq_true_iff.1 hd
  cases op with
  | nop => cases h
  | setFrame | setComp | loadQt =>
    have hactive : s.frameActive = false := by simpa using hduty
    simp only [headerCheck, setFrameCheck, setCompCheck, loadQtCheck, hactive, Bool.false_eq_true, if_false] at h
    split_ifs at h <;> cases h <;> simp
  | block =>
    have hnone := (blockCheck_eq_none_iff s).2 (by simpa using hduty)
    exact absurd (hnone.symm.trans h) (by simp)
  | finish =>
    have hnone := (finishCheck_eq_none_iff s).2 (by simpa using hduty)
    exact absurd (hnone.symm.trans h) (by simp)
  | start =>
    simp only [headerCheck, startCheck] at h
    split_ifs at h with hactive hincomplete hqt
    · cases h
      exact ⟨by decide, fun _ => ⟨rfl, hactive⟩⟩
    · cases h
      exact ⟨by decide, by simp⟩
    · exfalso
      simp only [List.all_eq_true, List.any_eq_true, List.mem_range, Bool.or_eq_true, Bool.not_eq_true', not_or,
        not_exists, not_and, Bool.not_eq_false] at hduty hincomplete hqt
      obtain ⟨k, hk, hmissing⟩ := hqt
      rcases hduty k hk with hunset | hloaded
      · exact absurd hunset (by simp [hincomplete.2 k hk])
      · exact absurd hmissing (by simp [hloaded])

/-- Settles O35: the checks that fail decide the error and its cause; without one the command commits. -/
theorem everyCommandHasANextState : Obligations.EveryCommandHasANextState := by
  intro i s
  rcases exec_turnedAway_or_accepted i s with ⟨c, hh, hx⟩ | ⟨j, c, hh, hp, hx⟩ | ⟨haccepts, hx⟩ <;>
    refine ⟨_, hx, fun he => ?_, fun hd herr => ?_⟩
  · simp [hh]
  · exact headerCheck_of_dutiful hd hh
  · simp only [raiseError_err, Bool.true_eq_false, false_iff]
    rintro ⟨-, hpass⟩
    simp [(firstBad_none_iff 1 _).2 hpass] at hp
  · rcases firstBad_cause (P := fun c => c = .invalidDimension ∨ c = .outOfRangeField)
      (fun _ _ => payloadCheck_eq_some) _ _ _ hp with rfl | rfl <;> simp
  · exact iff_of_true ((commitOf_err i s).trans he) haccepts
  · obtain ⟨herr', -⟩ := Bool.and_eq_true_iff.1 hd
    rw [commitOf_err] at herr
    simp [herr] at herr'

end Sys2Proof.Machine
end

section
/-! SUPPORT and PROOFS. What a step of the engine comes to for a header word and for a payload word
(spec/30_encoding.md R110, R113), and where there is no step (spec/60_exceptions.md R259, R262, R271). -/

namespace Sys2Proof.Machine

open Host (Outcome)

/-! ### Taking a word -/

theorem Memory.read_write_one {n : Nat} (m : Memory n) (a b : Nat) (v : BitVec n) :
    Memory.read (m.write a [v]) b = if b = a then some v else Memory.read m b := by
  by_cases h : b = a
  · simp [h, Memory.read_write]
  · rw [if_neg h, Memory.read_write_outside m [v] (by simp; omega)]

theorem engineEnabled_iff (s : State) : engineEnabled s = true ↔ s.fifo ≠ [] ∧ s.ps ≠ .halted := by
  simp [engineEnabled]

theorem engineMove_idle {s : State} {w : Word} {rest : List Word} (hp : s.ps = .idle) (hf : s.fifo = w :: rest) :
    engineMove s = headerMove w (popWord rest s) := by
  simp only [engineMove, hp, hf]

theorem engineMove_payload {s : State} {op : Opcode} {hdr w : Word} {n : Nat} {rest : List Word}
    (hp : s.ps = .payload op hdr n) (hf : s.fifo = w :: rest) :
    engineMove s = payloadMove op hdr n w (popWord rest s) := by
  simp only [engineMove, hp, hf]

section

variable {w : Word} {op : Opcode} (s : State)

theorem headerMove_run (hd : decodeHeader w = .ok op) (hl : op.len = 1) :
    headerMove w s = .run (assemble op w []) s := by
  simp only [headerMove, hd, if_pos hl]

theorem headerMove_accepted (hd : decodeHeader w = .ok op) (hl : op.len ≠ 1) (hc : headerCheck op w s = none) :
    headerMove w s = .next { s with ps := .payload op w 0 } := by
  simp only [headerMove, hd, if_neg hl, hc]

theorem headerMove_turnedAway {c : Cause} (hd : decodeHeader w = .ok op) (hl : op.len ≠ 1)
    (hc : headerCheck op w s = some c) : headerMove w s = .next (raiseError c op.code 0 s) := by
  simp only [headerMove, hd, if_neg hl, hc]

theorem payloadMove_run {hdr : Word} {n : Nat} (hc : payloadCheck op hdr w s.params = none) (hl : n + 1 = op.len - 1) :
    payloadMove op hdr n w s =
      .run (assemble op hdr (stagedWords (n + 1) (stage (n + 1) w s))) (commandComplete (stage (n + 1) w s)) := by
  simp only [payloadMove, hc, if_pos hl]

theorem payloadMove_staged {hdr : Word} {n : Nat} (hc : payloadCheck op hdr w s.params = none)
    (hl : n + 1 ≠ op.len - 1) :
    payloadMove op hdr n w s = .next { stage (n + 1) w s with ps := .payload op hdr (n + 1) } := by
  simp only [payloadMove, hc, if_neg hl]

theorem payloadMove_turnedAway {hdr : Word} {n : Nat} {c : Cause} (hc : payloadCheck op hdr w s.params = some c) :
    payloadMove op hdr n w s = .next (raiseError c op.code (n + 1) s) := by
  simp only [payloadMove, hc]

end

section

variable {s : State} {ts : List Turn} {w : Word} {rest : List Word} (h : s.engineNext ts) (hf : s.fifo = w :: rest)

include h hf

/-- Where the engine is next, the step is what its move comes to. -/
theorem step_of_engineMove {m : Move} (hp : s.ps ≠ .halted) (hm : engineMove { s with agenda := ts } = m) :
    (∀ t, m = .next t → step s = .next (releaseHeld t)) ∧ (∀ i t, m = .run i t → step s = afterEngine (exec i t)) := by
  have he : engineEnabled s = true := (engineEnabled_iff s).2 ⟨by simp [hf], hp⟩
  simp only [step, nextMove_of_engineNext h he, engineTurn, hm]
  constructor
  · rintro t rfl
    rfl
  · rintro i t rfl
    rfl

/-- Where the engine is next and takes a header word, the step is what the word comes to. -/
theorem step_of_headerMove (hp : s.ps = .idle) :
    (∀ t, headerMove w (popWord rest { s with agenda := ts }) = .next t → step s = .next (releaseHeld t)) ∧
    (∀ i t, headerMove w (popWord rest { s with agenda := ts }) = .run i t → step s = afterEngine (exec i t)) :=
  step_of_engineMove h hf (by simp [hp]) (engineMove_idle (s := { s with agenda := ts }) hp hf)

/-- Where the engine is next and takes a payload word, the step is what the word comes to. -/
theorem step_of_payloadMove {op : Opcode} {hdr : Word} {n : Nat} (hp : s.ps = .payload op hdr n) :
    (∀ t, payloadMove op hdr n w (popWord rest { s with agenda := ts }) = .next t → step s = .next (releaseHeld t)) ∧
    (∀ i t, payloadMove op hdr n w (popWord rest { s with agenda := ts }) = .run i t →
      step s = afterEngine (exec i t)) :=
  step_of_engineMove h hf (by simp [hp]) (engineMove_payload (s := { s with agenda := ts }) hp hf)

end

theorem releaseHeld_of_held_nil {s : State} (h : s.held = []) : releaseHeld s = s := by
  simp only [releaseHeld, h]

/-- An error completes the held writes with their words discarded (R48, spec/20_memory.md R93). -/
theorem releaseHeld_raiseError (c : Cause) (op : BitVec 8) (j : Nat) (s : State) :
    releaseHeld (raiseError c op j s) =
      errorState { s with held := [], resp := if s.held = [] then s.resp else some .writeDone } c op
        (BitVec.ofNat 7 j) := by
  cases hh : s.held <;> simp [releaseHeld, raiseError, hh]

/-- The release of a held write adds at most its one word to the FIFO. -/
theorem releaseHeld_fifo (s : State) : ∃ more, (releaseHeld s).fifo = s.fifo ++ more ∧ more.length ≤ 1 := by
  rcases releaseHeld_cases s with ⟨-, hr⟩ | ⟨-, -, hr⟩ | ⟨h, hs, -, -, -, hr⟩ | ⟨-, -, -, hr⟩ <;> rw [hr]
  · exact ⟨[], by simp⟩
  · exact ⟨[], by simp⟩
  · exact ⟨[h.data], rfl, le_rfl⟩
  · exact ⟨[], by simp⟩

/-- Settles O6: the header decoder rejects the word, and the error's release completes a held write. -/
theorem rejectedHeadersHalt : Obligations.RejectedHeadersHalt := by
  intro s w rest ha hp hf taken
  obtain ⟨hnext, -⟩ := step_of_headerMove (ts := s.agenda) (.inl ⟨ha, ha⟩) hf hp
  refine ⟨fun h7 => ?_, fun op hop hres => ?_⟩
  · refine (hnext (raiseError .illegalOpcode (opByte w) 0 (popWord rest s)) ?_).trans
      (congrArg Outcome.next (releaseHeld_raiseError ..))
    simp only [headerMove, decodeHeader_reserved (w := w) h7]
  · refine (hnext (raiseError .reservedBits op.code 0 (popWord rest s)) ?_).trans
      (congrArg Outcome.next (releaseHeld_raiseError ..))
    simp only [headerMove, decodeHeader_of_opByte (w := w) hop, if_neg hres]

/-- Settles O10: the header of a one-word command and the last payload word are each the case of the engine's move that
runs the command. -/
theorem completeCommandIsRun : Obligations.CompleteCommandIsRun := by
  refine ⟨fun s ts w rest op h hp hf hd hl => ?_, fun s ts op hdr n w rest h hp hf hl hc => ?_⟩
  · exact (step_of_headerMove h hf hp).2 _ _ (headerMove_run _ hd hl)
  · exact (step_of_payloadMove h hf hp).2 _ _ (payloadMove_run _ hc (by omega))

/-- Settles O14: a payload word that passes is staged, and one that fails ends the command. -/
theorem payloadWordStagedOrRejected : Obligations.PayloadWordStagedOrRejected := by
  intro s op hdr n w rest ha hp hf
  obtain ⟨hnext, -⟩ := step_of_payloadMove (ts := s.agenda) (.inl ⟨ha, ha⟩) hf hp
  refine ⟨fun hheld hc hl => ?_, fun c hc => ?_⟩
  · refine ⟨_, (hnext _ (payloadMove_staged (popWord rest s) hc (by omega))).trans
      (congrArg Outcome.next (releaseHeld_of_held_nil hheld)), rfl, ?_, fun j hj => ?_⟩
    · exact (Memory.read_write_one s.stg (n + 1) (n + 1) w).trans (if_pos rfl)
    · exact (Memory.read_write_one s.stg (n + 1) j w).trans (if_neg hj)
  · exact (hnext _ (payloadMove_turnedAway (popWord rest s) hc)).trans
      (congrArg Outcome.next (releaseHeld_raiseError ..))

/-! ### Where there is no engine step -/

section

variable {s : State} (ha : s.agenda = [])

include ha

theorem step_halted (hp : s.ps = .halted) : step s = .fault .halted := by
  simp only [step, nextMove, ha, engineTurn, engineMove, hp]

theorem step_waiting (hf : s.fifo = []) (hp : s.ps = .idle) : step s = .fault .waiting := by
  simp only [step, nextMove, ha, engineTurn, engineMove, hp, hf]

theorem step_stuck (hf : s.fifo = []) {op : Opcode} {hdr : Word} {n : Nat} (hp : s.ps = .payload op hdr n) :
    step s = .fault .stuck := by
  simp only [step, nextMove, ha, engineTurn, engineMove, hp, hf]

/-- With nothing planned the machine stops exactly where no engine step is enabled. -/
theorem step_fault_iff : (∃ f, step s = .fault f) ↔ engineEnabled s = false := by
  constructor
  · rintro ⟨f, hf⟩
    by_contra he
    obtain ⟨hne, hp⟩ := (engineEnabled_iff s).1 (by simpa using he)
    obtain ⟨w, rest, hcons⟩ := List.exists_cons_of_ne_nil hne
    obtain ⟨u, -, hu⟩ := step_of_engineNext (.inl ⟨ha, rfl⟩) hcons hp
    simp [hu] at hf
  · intro he
    rcases hp : s.ps with _ | ⟨op, hdr, n⟩ | _
    · exact ⟨_, step_waiting ha (by simpa [engineEnabled, hp] using he) hp⟩
    · exact ⟨_, step_stuck ha (by simpa [engineEnabled, hp] using he) hp⟩
    · exact ⟨_, step_halted ha hp⟩

theorem hangs_iff : s.hangs = true ↔ (∃ f, step s = .fault f) ∧ s.succeeded = false ∧ s.failed = false := by
  simp [State.hangs, ha, step_fault_iff ha, and_assoc]

end

/-- A run that stops where neither end condition holds is a hang: it reaches no other state (R271). -/
theorem runHangs_of_hangs {s : State} (h : s.hangs = true) : s.runHangs := by
  have ha : s.agenda = [] := by
    simp only [State.hangs, Bool.and_eq_true, List.isEmpty_iff] at h
    obtain ⟨⟨⟨ha, -⟩, -⟩, -⟩ := h
    exact ha
  obtain ⟨⟨f, hf⟩, hends⟩ := (hangs_iff ha).1 h
  intro t ht
  rw [eq_of_reaches hf ht]
  exact hends

/-- Settles O13: an enabled step takes a word, then the release of a held write may add one; a planned turn passes where
none is enabled, and with nothing planned the machine stops there. -/
theorem engineStepTakesOneWord : Obligations.EngineStepTakesOneWord := by
  intro s
  refine ⟨fun ts w rest h hf hp => ?_, fun ts ha hstop => ?_, fun ha => ⟨step_halted ha, step_waiting ha,
    fun op hdr n hf hp => step_stuck ha hf hp, hangs_iff ha⟩, runHangs_of_hangs⟩
  · obtain ⟨u, hu, hstep⟩ := step_of_engineNext h hf hp
    obtain ⟨-, hagenda, hcsi, hfifo⟩ := hu.takesWord
    refine ⟨_, hstep, by simpa using hcsi, by simpa using hagenda, fun he => ?_⟩
    have hrest : u.fifo = rest := by simpa [hf] using hfifo (by simpa using he)
    exact hrest ▸ releaseHeld_fifo u
  · have he : engineEnabled s = false := by
      rcases hstop with hstop | hstop <;> simp [engineEnabled, hstop]
    simp only [step, nextMove, ha, he, Bool.false_eq_true, if_false]

end Sys2Proof.Machine
end

section
/-! SUPPORT and PROOFS. The word steps of the engine refine the meaning of a command (spec/30_encoding.md R110, R113): up
to the word that decides each step accepts one word, and the step that takes that word comes to the command's meaning. -/

namespace Sys2Proof.Machine

open Host (Outcome)

/-! ### The word that decides -/

/-- The first payload word that fails, and those before it. -/
theorem firstBad_eq_some {check : Word → Option Cause} {c : Cause} : ∀ {ws : List Word} {b j : Nat},
    firstBad check b ws = some (j, c) → ∃ k w, j = b + k ∧ ws[k]? = some w ∧ check w = some c ∧
      ∀ k' < k, ∀ w', ws[k']? = some w' → check w' = none
  | [], _, _, h => by simp [firstBad] at h
  | w :: ws, b, j, h => by
    rw [firstBad] at h
    split at h
    · next c' hc =>
      obtain ⟨rfl, rfl⟩ : b = j ∧ c' = c := by simpa using h
      exact ⟨0, w, rfl, rfl, hc, by simp⟩
    · next hc =>
      obtain ⟨k, v, rfl, hv, hcv, hbefore⟩ := firstBad_eq_some h
      refine ⟨k + 1, v, by omega, hv, hcv, fun k' hk' w' hw' => ?_⟩
      cases k' with
      | zero => exact Option.some.inj hw' ▸ hc
      | succ k' => exact hbefore k' (by omega) w' hw'

section

variable {i : Instr} {s : State}

theorem decidingWord_of_headerCheck {c : Cause} (h : headerCheck i.opcode (encodeHeader i) s = some c) :
    decidingWord i s = 0 := by
  simp [decidingWord, h]

theorem decidingWord_of_firstBad {j : Nat} {c : Cause} (hh : headerCheck i.opcode (encodeHeader i) s = none)
    (hp : firstBad (fun w => payloadCheck i.opcode (encodeHeader i) w s.params) 1 (encodePayload i) = some (j, c)) :
    decidingWord i s = j := by
  simp [decidingWord, hh, hp]

theorem decidingWord_of_accepts (h : s.accepts i) : decidingWord i s = i.opcode.len - 1 := by
  obtain ⟨hh, hp⟩ := h
  simp only [decidingWord, hh, (firstBad_none_iff 1 _).2 hp, Option.isSome_none, Bool.false_eq_true, if_false]

theorem one_le_len (op : Opcode) : 1 ≤ op.len := by cases op <;> decide

/-- The deciding word is a word of the command. -/
theorem decidingWord_lt_len (i : Instr) (s : State) : decidingWord i s < i.opcode.len := by
  have hlen := one_le_len i.opcode
  rcases exec_turnedAway_or_accepted i s with ⟨c, hh, -⟩ | ⟨j, c, hh, hp, -⟩ | ⟨haccepts, -⟩
  · rw [decidingWord_of_headerCheck hh]
    omega
  · have hj := firstBad_bounds hp
    rw [encodePayload_length] at hj
    rw [decidingWord_of_firstBad hh hp]
    omega
  · rw [decidingWord_of_accepts haccepts]
    omega

/-- A word before the deciding one passes: the header, and each payload word. -/
theorem passes_of_lt_decidingWord {d : Nat} (h : d < decidingWord i s) :
    headerCheck i.opcode (encodeHeader i) s = none ∧
      ∀ w, 1 ≤ d → (encodePayload i)[d - 1]? = some w → payloadCheck i.opcode (encodeHeader i) w s.params = none := by
  rcases exec_turnedAway_or_accepted i s with ⟨c, hh, -⟩ | ⟨j, c, hh, hp, -⟩ | ⟨⟨hh, hp⟩, -⟩
  · simp [decidingWord_of_headerCheck hh] at h
  · rw [decidingWord_of_firstBad hh hp] at h
    obtain ⟨k, -, rfl, -, -, hbefore⟩ := firstBad_eq_some hp
    exact ⟨hh, fun w hd hw => hbefore (d - 1) (by omega) w hw⟩
  · exact ⟨hh, fun w _ hw => hp w (List.mem_of_getElem? hw)⟩

end

/-! ### The states between the words -/

/-- `s` with the first `d` words of the command taken: counted, the header and `d - 1` payload words accepted. -/
def awaiting (i : Instr) (d : Nat) (stg : Memory 32) (fifo : List Word) (s : State) : State :=
  { s with
    csi := s.csi + d
    ps := if d = 0 then .idle else .payload i.opcode (encodeHeader i) (d - 1)
    stg := stg
    fifo := fifo }

/-- The payload words before word `d` of the command are staged (spec/10_state.md R63). -/
def StagedBefore (i : Instr) (d : Nat) (stg : Memory 32) : Prop :=
  ∀ j, 1 ≤ j → j < d → stg.read j = (encodePayload i)[j - 1]?

theorem StagedBefore.write {i : Instr} {n : Nat} {stg : Memory 32} {w : Word} (h : StagedBefore i (n + 1) stg)
    (hw : (encodePayload i)[n]? = some w) : StagedBefore i (n + 2) (stg.write (n + 1) [w]) := by
  intro j hj hlt
  rw [Memory.read_write_one]
  split_ifs with hjn
  · rw [hjn, Nat.add_sub_cancel, hw]
  · exact h j hj (by omega)

/-- Staged words are the payload that the command is assembled from. -/
theorem StagedBefore.stagedWords {i : Instr} {n : Nat} {s : State} (h : StagedBefore i (n + 1) s.stg)
    (hn : n = (encodePayload i).length) : stagedWords n s = encodePayload i := by
  apply List.ext_getElem
  · simp [Machine.stagedWords, hn]
  · intro k hk hk'
    have hread : s.stg.read (k + 1) = some (encodePayload i)[k] := by
      rw [h (k + 1) (by omega) (by omega), Nat.add_sub_cancel, List.getElem?_eq_getElem]
    simp [Machine.stagedWords, Memory.readOrFree_some hread]

/-- A header check looks at no port field: the count, the parser, the FIFO, the staging buffer, the plan, the draws. -/
theorem headerCheck_port (op : Opcode) (hdr : Word) (s : State) (csi : Nat) (ps : ParserState) (fifo : List Word)
    (stg : Memory 32) (agenda : List Turn) (draws : Nat) :
    headerCheck op hdr { s with csi := csi, ps := ps, fifo := fifo, stg := stg, agenda := agenda, draws := draws } =
      headerCheck op hdr s := by
  cases op <;> rfl

/-- A word before the deciding one is accepted. -/
theorem step_awaiting_accepts {i : Instr} {d : Nat} {s : State} {stg : Memory 32} {w : Word} (rest : List Word)
    (ha : s.agenda = []) (hheld : s.held = []) (hlt : d < decidingWord i s) (hw : (encode i)[d]? = some w)
    (hst : StagedBefore i d stg) :
    ∃ stg', StagedBefore i (d + 1) stg' ∧
      step (awaiting i d stg (w :: rest) s) = .next (awaiting i (d + 1) stg' rest s) := by
  obtain ⟨hheader, hpayload⟩ := passes_of_lt_decidingWord hlt
  have hlen := decidingWord_lt_len i s
  have hrelease : ∀ stg', releaseHeld (awaiting i (d + 1) stg' rest s) = awaiting i (d + 1) stg' rest s :=
    fun stg' => releaseHeld_of_held_nil hheld
  have hnext : (awaiting i d stg (w :: rest) s).engineNext s.agenda := .inl ⟨ha, ha⟩
  cases d with
  | zero =>
    obtain rfl : encodeHeader i = w := by simpa [encode] using hw
    refine ⟨stg, fun j hj hj' => by omega, ?_⟩
    rw [← hrelease]
    exact (step_of_headerMove hnext rfl rfl).1 _ (headerMove_accepted _ (decodeHeader_encodeHeader i) (by omega)
      ((headerCheck_port ..).trans hheader))
  | succ n =>
    have hw' : (encodePayload i)[n]? = some w := by simpa [encode] using hw
    refine ⟨stg.write (n + 1) [w], hst.write hw', ?_⟩
    rw [← hrelease]
    exact (step_of_payloadMove hnext rfl rfl).1 _ (payloadMove_staged _ (hpayload w (by omega) hw') (by omega))

/-! ### The step that decides -/

/-- The state `t` in which a command's meaning is reached from `s` with its deciding word taken and `rest` behind it. -/
structure DecidedIn (i : Instr) (s : State) (rest : List Word) (t : State) : Prop where
  frame : t = { s with
    csi := s.csi + decidingWord i s + 1, ps := t.ps, fifo := t.fifo, stg := t.stg, draws := t.draws }
  accepted : s.accepts i →
    decidingWord i s + 1 = i.opcode.len ∧ t.ps = .idle ∧ t.fifo = rest ∧
      ∀ j, 1 ≤ j → j < i.opcode.len → t.stg.read j = (encodePayload i)[j - 1]?

/-- The step that takes the deciding word runs the command; `plan` is what is planned, up to the engine's turn. -/
theorem step_awaiting_decides {i : Instr} {d : Nat} {s : State} {stg : Memory 32} {w : Word} {plan : List Turn}
    (rest : List Word) (hnext : State.engineNext { s with agenda := plan } s.agenda) (hd : decidingWord i s = d)
    (hw : (encode i)[d]? = some w) (hst : StagedBefore i d stg) :
    ∃ t, step (awaiting i d stg (w :: rest) { s with agenda := plan }) = afterEngine (exec i t) ∧
      DecidedIn i s rest t := by
  have hlen := hd ▸ decidingWord_lt_len i s
  have hplen := encodePayload_length i
  have hdec := decodeHeader_encodeHeader i
  have hnext' : (awaiting i d stg (w :: rest) { s with agenda := plan }).engineNext s.agenda := hnext
  have hcheck : headerCheck i.opcode (encodeHeader i) (popWord rest (awaiting i d stg (w :: rest) s)) =
      headerCheck i.opcode (encodeHeader i) s := headerCheck_port ..
  have hframe : popWord rest (awaiting i d stg (w :: rest) s) = { s with
      csi := s.csi + decidingWord i s + 1, ps := (awaiting i d stg (w :: rest) s).ps, fifo := rest, stg := stg } := by
    rw [hd]
    rfl
  by_cases hone : i.opcode.len = 1
  · obtain rfl : d = 0 := by omega
    obtain rfl : encodeHeader i = w := by simpa [encode] using hw
    have hnil : encodePayload i = [] := List.eq_nil_of_length_eq_zero (by omega)
    have hrun := (step_of_headerMove hnext' rfl rfl).2 _ _ (headerMove_run _ hdec hone)
    rw [← hnil, assemble_encode] at hrun
    exact ⟨_, hrun, hframe, fun _ => ⟨by omega, rfl, rfl, fun j hj hj' => by omega⟩⟩
  · rcases exec_turnedAway_or_accepted i s with ⟨c, hh, -⟩ | ⟨j, c, hh, hp, -⟩ | ⟨haccepts, -⟩
    · obtain rfl : 0 = d := (decidingWord_of_headerCheck hh).symm.trans hd
      obtain rfl : encodeHeader i = w := by simpa [encode] using hw
      refine ⟨_, ?_, hframe, fun haccepts => ?_⟩
      · rw [exec_of_headerCheck (hcheck.trans hh)]
        exact (step_of_headerMove hnext' rfl rfl).1 _ (headerMove_turnedAway _ hdec hone (hcheck.trans hh))
      · exact absurd (hh.symm.trans haccepts.1) (by simp)
    · obtain rfl : j = d := (decidingWord_of_firstBad hh hp).symm.trans hd
      obtain ⟨k, w', hk, hw', hc, -⟩ := firstBad_eq_some hp
      obtain rfl : j = k + 1 := by omega
      obtain rfl : w' = w := by simpa [encode, hw'] using hw
      refine ⟨_, ?_, hframe, fun haccepts => ?_⟩
      · rw [exec_of_firstBad (hcheck.trans hh) hp]
        exact (step_of_payloadMove hnext' rfl rfl).1 _ (payloadMove_turnedAway _ hc)
      · exact absurd (hc.symm.trans (haccepts.2 w' (List.mem_of_getElem? hw'))) (by simp)
    · have hlast : d = i.opcode.len - 1 := hd.symm.trans (decidingWord_of_accepts haccepts)
      obtain ⟨n, rfl⟩ : ∃ n, d = n + 1 := ⟨d - 1, by omega⟩
      have hw' : (encodePayload i)[n]? = some w := by simpa [encode] using hw
      have hstaged := hst.write hw'
      have hrun := (step_of_payloadMove hnext' rfl rfl).2 _ _
        (payloadMove_run _ (haccepts.2 w (List.mem_of_getElem? hw')) hlast)
      rw [StagedBefore.stagedWords (i := i) hstaged (by omega), assemble_encode] at hrun
      refine ⟨_, hrun, ?_, fun _ => ⟨by omega, rfl, rfl, fun j hj hj' => hstaged j hj (by omega)⟩⟩
      rw [hd]
      rfl

/-- The words that `placeCommand` stages are the payload before word `d`. -/
theorem stagedBefore_write_take {i : Instr} {d : Nat} (hd : d < i.opcode.len) (stg : Memory 32) :
    StagedBefore i d (stg.write 1 ((encodePayload i).take (d - 1))) := by
  intro j hj hlt
  have hlen : ((encodePayload i).take (d - 1)).length = d - 1 := by
    rw [List.length_take_of_le]
    rw [encodePayload_length]
    omega
  rw [Memory.read_write, if_pos (by omega), List.getElem?_take_of_lt (by omega)]

/-- Settles O12: the placed state is the one that awaits the deciding word, with the engine's turn planned. -/
theorem placedCommandRunsNext : Obligations.PlacedCommandRunsNext := by
  intro i s
  have hlt := decidingWord_lt_len i s
  have hw : (encode i)[decidingWord i s]? = some ((encode i).getD (decidingWord i s) 0) := by
    rw [← encode_length] at hlt
    rw [List.getD_eq_getElem _ _ hlt, List.getElem?_eq_getElem hlt]
  have hst : StagedBefore i (decidingWord i s) (placeCommand i s).stg := by
    rw [placeCommand]
    split_ifs with hd
    · intro j hj hlt
      omega
    · exact stagedBefore_write_take hlt s.stg
  obtain ⟨t, hrun, ht⟩ := step_awaiting_decides s.fifo (plan := .engine :: s.agenda) (.inr (.inl rfl)) rfl hw hst
  exact ⟨t, hrun, ht.frame⟩

/-! ### The run of a command's words -/

theorem afterEngine_exec_of_held_nil (i : Instr) {t : State} (h : t.held = []) : afterEngine (exec i t) = exec i t := by
  rcases exec_cases i t with ⟨c, j, -, hx⟩ | ⟨-, hx⟩ <;> rw [hx] <;>
    exact congrArg Outcome.next (releaseHeld_of_held_nil (by simpa using h))

/-- From a state that awaits word `d`, the steps up to the deciding word come to the command's meaning. -/
theorem run_awaiting {i : Instr} {s : State} (rest : List Word) (ha : s.agenda = []) (hheld : s.held = []) :
    ∀ (k d : Nat) (stg : Memory 32), d + k = decidingWord i s → StagedBefore i d stg →
      ∃ t, Host.Core.run Sys2Proof.core (k + 1) (awaiting i d stg ((encode i).drop d ++ rest) s) = exec i t ∧
        DecidedIn i s ((encode i).drop (decidingWord i s + 1) ++ rest) t := by
  have hword : ∀ d ≤ decidingWord i s, ∃ w, (encode i)[d]? = some w ∧
      (encode i).drop d ++ rest = w :: ((encode i).drop (d + 1) ++ rest) := by
    intro d hd
    have hlt : d < (encode i).length := by
      have := decidingWord_lt_len i s
      rw [encode_length]
      omega
    exact ⟨_, List.getElem?_eq_getElem hlt, by rw [List.drop_eq_getElem_cons hlt, List.cons_append]⟩
  intro k
  induction k with
  | zero =>
    intro d stg hd hst
    obtain rfl : decidingWord i s = d := hd.symm
    obtain ⟨w, hw, hfifo⟩ := hword _ le_rfl
    obtain ⟨t, hstep, ht⟩ := step_awaiting_decides (plan := s.agenda) ((encode i).drop (decidingWord i s + 1) ++ rest)
      (.inl ⟨ha, ha⟩) rfl hw hst
    have hidle : t.held = [] := by rw [ht.frame, hheld]
    refine ⟨t, ?_, ht⟩
    rw [hfifo, run_one]
    exact hstep.trans (afterEngine_exec_of_held_nil i hidle)
  | succ k ih =>
    intro d stg hd hst
    obtain ⟨w, hw, hfifo⟩ := hword d (by omega)
    obtain ⟨stg', hst', hstep⟩ := step_awaiting_accepts ((encode i).drop (d + 1) ++ rest) ha hheld (by omega) hw hst
    rw [hfifo, run_of_step_next _ hstep]
    exact ih (d + 1) stg' (by omega) hst'

/-- Settles O11: the run begins where no word is taken yet; a command that passes has no word behind its deciding one. -/
theorem wordStepsRunOneCommand : Obligations.WordStepsRunOneCommand := by
  intro i rest s hp ha hheld hf
  have hs : awaiting i 0 s.stg ((encode i).drop 0 ++ rest) s = s := by
    rw [List.drop_zero, ← hf, awaiting, if_pos rfl, ← hp]
    rfl
  obtain ⟨t, hrun, ht⟩ := run_awaiting rest ha hheld (decidingWord i s) 0 s.stg (Nat.zero_add _)
    (fun j hj hlt => by omega)
  rw [hs] at hrun
  refine ⟨t, hrun, ht.frame, fun haccepts => ?_⟩
  obtain ⟨hlen, hidle, hfifo, hstaged⟩ := ht.accepted haccepts
  rw [List.drop_eq_nil_of_le (by rw [encode_length, hlen]), List.nil_append] at hfifo
  exact ⟨hlen, hidle, hfifo, hstaged⟩

end Sys2Proof.Machine
end

section
/-! SUPPORT and PROOFS. The zigzag map and the entry words of a table, what `LOAD_QT` comes to by its checks, and what a
read of a loaded table's window returns (spec/40_tables.md R140 to R145, spec/20_memory.md R82). -/

namespace Sys2Proof.Machine

/-! ### The zigzag map (R140, R141) -/

/-- Settles O22: both tables and the scan of the anti-diagonals compute to the rule's lists. -/
theorem zigzagMapIsTheScan : Obligations.ZigzagMapIsTheScan := by
  refine ⟨?_, ?_, ?_⟩ <;> decide

theorem zz_lt : ∀ {k : Nat}, k < 64 → zz k < 64 := by decide

theorem zzInv_lt : ∀ {i : Nat}, i < 64 → zzInv i < 64 := by decide

theorem zzInv_zz : ∀ {k : Nat}, k < 64 → zzInv (zz k) = k := by decide

theorem zz_zzInv : ∀ {i : Nat}, i < 64 → zz (zzInv i) = i := by decide

/-- Settles O23: each table undoes the other on the 64 positions. -/
theorem zigzagMapIsBijection : Obligations.ZigzagMapIsBijection :=
  ⟨fun _ hk => ⟨zz_lt hk, zzInv_zz hk⟩, fun _ hi => ⟨zzInv_lt hi, zz_zzInv hi⟩, rfl, rfl⟩

/-- The reorderer reads raster position `i` at its zigzag index. -/
theorem getElem?_fromZigzag {α : Type} (d : α) (e : List α) {i : Nat} (hi : i < 64) :
    (fromZigzag d e)[i]? = some (e.getD (zzInv i) d) := by
  have hlen : i < zzInvTable.length := hi
  rw [fromZigzag, List.getElem?_map, zzInv, List.getElem?_eq_getElem hlen, List.getD_eq_getElem _ _ hlen]
  rfl

/-! ### Entry words (R119, R144) -/

/-- The bits of a word from `lo` up are 0 exactly when the word is below `2 ^ lo`. -/
theorem upperBits_eq_zero_iff (w : Word) {lo len : Nat} (h : lo + len = 32) :
    bits w lo len = 0#len ↔ w.toNat < 2 ^ lo := by
  rw [← ushiftRight_eq_setWidth_iff w h 0#len, ← BitVec.toNat_inj, BitVec.toNat_ushiftRight,
    Nat.shiftRight_eq_div_pow]
  simp [Nat.div_eq_zero_iff]

/-- A legal precision's check passes the words below its bound. -/
theorem entryCheck_eq_ite {pq : BitVec 4} (h : pq = 0 ∨ pq = 1) (w : Word) :
    entryCheck pq w = if w.toNat < (if pq = 0 then 256 else 65536) then none else some .outOfRangeField := by
  rcases h with rfl | rfl
  · have hupper := upperBits_eq_zero_iff w (lo := 8) (len := 24) rfl
    by_cases hw : w.toNat < 256 <;> simp [entryCheck, hupper, hw]
  · have hupper := upperBits_eq_zero_iff w (lo := 16) (len := 16) rfl
    by_cases hw : w.toNat < 65536 <;> simp [entryCheck, hupper, hw]

theorem toNat_entryValue {w : Word} (h : w.toNat < 65536) : (entryValue w).toNat = w.toNat := by
  rw [entryValue, BitVec.extractLsb'_toNat, Nat.shiftRight_zero, Nat.mod_eq_of_lt h]

/-- Settles O8: the bounds of the two precisions, and a word of 16 bits is its own value. -/
theorem entryWordLegality : Obligations.EntryWordLegality := fun w =>
  ⟨entryCheck_eq_ite (.inl rfl) w, entryCheck_eq_ite (.inr rfl) w, toNat_entryValue⟩

/-- A word that passes its check is its value with the upper bits 0. -/
theorem setWidth_entryValue {pq : BitVec 4} (hpq : pq = 0 ∨ pq = 1) {w : Word} (h : entryCheck pq w = none) :
    (entryValue w).setWidth 32 = w := by
  have hlt : w.toNat < 65536 := by
    rw [entryCheck_eq_ite hpq] at h
    split_ifs at h <;> omega
  refine BitVec.eq_of_toNat_eq ?_
  rw [BitVec.toNat_setWidth_of_le (by decide), toNat_entryValue hlt]

/-! ### The checks of `LOAD_QT` (R143, R144) -/

/-- The first payload word that fails decides, wherever the count of positions begins. -/
theorem firstBad_of_first {check : Word → Option Cause} {c : Cause} :
    ∀ {ws : List Word} {k : Nat} (b : Nat) (hk : k < ws.length), check ws[k] = some c →
      (∀ j, (hj : j < k) → check ws[j] = none) → firstBad check b ws = some (b + k, c)
  | w :: ws, 0, b, _, hc, _ => by
    have hw : check w = some c := hc
    simp [firstBad, hw]
  | w :: ws, k + 1, b, hk, hc, hbefore => by
    have hw : check w = none := hbefore 0 (Nat.succ_pos k)
    have hrest := firstBad_of_first (ws := ws) (b + 1) (Nat.lt_of_succ_lt_succ hk) hc
      fun j hj => hbefore (j + 1) (Nat.succ_lt_succ hj)
    rw [firstBad, hw, hrest, Nat.add_right_comm, Nat.add_assoc]

section

variable {pq tq : BitVec 4} {e : Vector Word 64} {s : State}

theorem headerCheck_loadQt :
    headerCheck (Instr.loadQt pq tq e).opcode (encodeHeader (.loadQt pq tq e)) s = loadQtCheck pq tq s := by
  simp [headerCheck, Instr.opcode]

theorem exec_loadQt_of_loadQtCheck {c : Cause} (h : loadQtCheck pq tq s = some c) :
    exec (.loadQt pq tq e) s = .next (raiseError c Opcode.loadQt.code 0 s) :=
  exec_of_headerCheck (headerCheck_loadQt.trans h)

theorem loadQtCheck_of_frameActive (h : s.frameActive = true) : loadQtCheck pq tq s = some .sequence := by
  simp [loadQtCheck, h]

theorem loadQtCheck_of_precision (h : s.frameActive = false) (hpq : ¬(pq = 0 ∨ pq = 1)) :
    loadQtCheck pq tq s = some .outOfRangeField := by
  simp [loadQtCheck, h, (legalPrecision_iff pq).not.2 hpq]

theorem loadQtCheck_of_tableId (h : s.frameActive = false) (hpq : pq = 0 ∨ pq = 1) (htq : ¬(tq = 0 ∨ tq = 1)) :
    loadQtCheck pq tq s = some .invalidTableId := by
  have hid : legalTableId tq = false := by simpa [legalTableId_eq, tableIdLegal] using htq
  simp [loadQtCheck, h, (legalPrecision_iff pq).2 hpq, hid]

theorem loadQtCheck_of_legal (h : s.frameActive = false) (hpq : pq = 0 ∨ pq = 1) (htq : tq = 0 ∨ tq = 1) :
    loadQtCheck pq tq s = none :=
  (loadQtCheck_eq_none_iff pq tq s).2 ⟨h, hpq, by simpa [tableIdLegal] using htq⟩

/-! ### The commit of `LOAD_QT` (R142, R143) -/

/-- Raster position `ZZ[k]` of the loaded table holds entry `k`. -/
theorem read_commitLoadQt_zz {k : Nat} (hk : k < 64) :
    (commitLoadQt tq e s).qt.read (qtKey tq.toNat (zz k)) = some (entryValue e[k]) := by
  have hzz := zz_lt hk
  rw [commitLoadQt, setQtv_qt, Memory.read_write, fromZigzag_length, if_pos (by unfold qtKey; omega),
    show qtKey tq.toNat (zz k) - qtKey tq.toNat 0 = zz k by unfold qtKey; omega, getElem?_fromZigzag _ _ hzz,
    zzInv_zz hk, List.getD_eq_getElem _ _ (by simpa using hk)]
  simp

theorem read_commitLoadQt_outside {a : Nat} (h : a < qtKey tq.toNat 0 ∨ qtKey tq.toNat 64 ≤ a) :
    (commitLoadQt tq e s).qt.read a = s.qt.read a := by
  rw [commitLoadQt, setQtv_qt]
  exact Memory.read_write_outside _ _ (by rw [fromZigzag_length]; exact h)

/-- The commit changes the tables and the valid bit of its own table. -/
theorem commitLoadQt_frame (htq : tq = 0 ∨ tq = 1) :
    commitLoadQt tq e s = { s with
      qt := (commitLoadQt tq e s).qt
      qt0Valid := s.qt0Valid || decide (tq = 0)
      qt1Valid := s.qt1Valid || decide (tq = 1) } := by
  rcases htq with rfl | rfl <;> simp [commitLoadQt, State.setQtv]

theorem qtv_commitLoadQt (htq : tq.toNat < 2) : (commitLoadQt tq e s).qtv tq.toNat = true := by
  rw [commitLoadQt, setQtv_qtv, if_pos ⟨rfl, htq⟩]

end

/-- Settles O24: each clause is one check of the header, the first entry word that fails, or the commit. -/
theorem loadQtOutcome : Obligations.LoadQtOutcome := by
  intro pq tq e s legal
  have hcheck : pq = 0 ∨ pq = 1 → ∀ w : Word, entryCheck pq w = if legal w then none else some .outOfRangeField :=
    entryCheck_eq_ite
  refine ⟨fun ha => exec_loadQt_of_loadQtCheck (loadQtCheck_of_frameActive ha),
    fun ha h0 h1 => exec_loadQt_of_loadQtCheck (loadQtCheck_of_precision ha (not_or.2 ⟨h0, h1⟩)),
    fun ha hpq h0 h1 => exec_loadQt_of_loadQtCheck (loadQtCheck_of_tableId ha hpq (not_or.2 ⟨h0, h1⟩)),
    fun ha hpq htq j hj hbad hbefore => ?_, fun ha hpq htq hall => ?_⟩
  · have hfirst : firstBad (entryCheck pq) 1 e.toList = some (1 + j, .outOfRangeField) :=
      firstBad_of_first 1 (by simpa using hj) (by simp [hcheck hpq, hbad])
        fun k hk => by simp [hcheck hpq, hbefore k hk]
    simp only [exec, execLoadQt, loadQtCheck_of_legal ha hpq htq, hfirst, Nat.add_comm 1 j]
    rfl
  · have hpasses : passes (.loadQt pq tq e) s := by
      refine ⟨loadQtCheck_of_legal ha hpq htq, (firstBad_none_iff 1 _).2 fun w hw => ?_⟩
      obtain ⟨k, hk, rfl⟩ := List.mem_iff_getElem.1 hw
      simp [hcheck hpq, hall k (by simpa using hk)]
    exact ⟨commitLoadQt tq e s, exec_of_passes hpasses, commitLoadQt_frame htq, fun k hk => read_commitLoadQt_zz hk,
      fun a ha => read_commitLoadQt_outside ha⟩

/-- Settles O25: without an error the table is committed and valid, and its window shows the entry with the upper bits
0, which the checks found to be the entry word. -/
theorem qtWindowRoundTrip : Obligations.QtWindowRoundTrip := by
  intro pq tq e s t _ hexec herr hbusy k hk
  rcases exec_cases (.loadQt pq tq e) s with ⟨c, j, -, hx⟩ | ⟨⟨hheader, hentries⟩, hx⟩ <;>
    obtain rfl := Host.Outcome.next.inj (hexec.symm.trans hx)
  · simp at herr
  · have hread := read_commitLoadQt_zz (tq := tq) (e := e) (s := s) hk
    refine ⟨hread, ?_⟩
    have htq : tq.toNat < 2 := Nat.lt_succ_of_le (loadQtCheck_none_table hheader)
    obtain ⟨-, hpq, -⟩ := (loadQtCheck_eq_none_iff pq tq s).1 hheader
    have hword : entryCheck pq e[k] = none := (firstBad_none_iff 1 _).1 hentries _ (by simp)
    rw [readOffset_idle (targetAt_qtWindow _ htq (zz_lt hk)) rfl hbusy]
    calc idleWindowWord (commitLoadQt tq e s) (.qtWindow tq.toNat (zz k))
        = (entryValue e[k]).setWidth 32 := by
          rw [idleWindowWord_qtWindow_valid (qtv_commitLoadQt htq), Memory.readOrFree_some hread]
      _ = e[k] := setWidth_entryValue hpq hword

end Sys2Proof.Machine
end

section
/-! SUPPORT and PROOFS. Within a frame the tables and the configuration are read-only (spec/40_tables.md R147,
spec/70_reset_and_hazards.md R305, spec/41_frame.md R170). -/

namespace Sys2Proof.Machine

/-- What a frame is decoded with: the tables, the configuration, and what `START` computes from it. -/
structure FrameSetup where
  qt : Memory 16
  qtValid : Bool × Bool
  size : BitVec 16 × BitVec 16
  ncomp : BitVec 4
  comps : CompCfg × CompCfg × CompCfg
  grid : BitVec 16 × BitVec 16
  maxima : BitVec 4 × BitVec 4
  blktotal : BitVec 32

/-- The setup that the state's registers and tables hold. -/
def State.frameSetup (s : State) : FrameSetup where
  qt := s.qt
  qtValid := (s.qt0Valid, s.qt1Valid)
  size := (s.frameW, s.frameH)
  ncomp := s.ncomp
  comps := (s.comp0, s.comp1, s.comp2)
  grid := (s.mcux, s.mcuy)
  maxima := (s.hmax, s.vmax)
  blktotal := s.blktotal

/-- The commands that write the setup do not pass inside a frame. -/
theorem frameSetup_commitOf {i : Instr} {s : State} (ha : s.frameActive = true) (hi : passes i s) :
    (commitOf i s).frameSetup = s.frameSetup := by
  cases i with
  | nop | block coefs | finish => rfl
  | setFrame nc height width => exact absurd (setFrameCheck_none hi.1) (by simp [ha])
  | setComp ci hs vs tq => exact absurd (setCompCheck_none hi) (by simp [ha])
  | loadQt pq tq entries => exact absurd (loadQtCheck_none hi.1) (by simp [ha])
  | start => exact absurd (startCheck_none hi).1 (by simp [ha])

/-- Inside a frame an engine step keeps the setup, even where it ends in an error. -/
theorem EngineLeaves.frameSetup {s u : State} (hu : EngineLeaves s u) (ha : s.frameActive = true) :
    u.frameSetup = s.frameSetup := by
  cases hu with
  | error w rest v c op j hf hp hc hv => rcases hv with rfl | ⟨op', hdr, n, -, -, rfl⟩ <;> rfl
  | header w rest op hf hp hd hl hc => rfl
  | staged w rest op hdr n hf hp hc hl => rfl
  | oneWord w rest op hf hp hd hl hc => exact frameSetup_commitOf (s := popWord rest s) ha hc
  | lastWord w rest op hdr n v hf hp hw hl hv hc =>
    subst hv
    exact frameSetup_commitOf (s := commandComplete (stage (n + 1) w (popWord rest s))) ha hc

theorem frameSetup_releaseHeld (s : State) : (releaseHeld s).frameSetup = s.frameSetup := by
  simp [State.frameSetup]

/-- A host write that leaves a frame open is no reset, and keeps the setup. -/
theorem frameSetup_hostWrite {m : Master} {off : Nat} {w : Word} {s : State}
    (ha : (hostWrite m off w s).frameActive = true) : (hostWrite m off w s).frameSetup = s.frameSetup := by
  rcases hostWrite_cases m off w s with hw | hw | hw | ⟨-, -, hw⟩ | ⟨-, -, hw⟩ | hw <;> rw [hw] at ha ⊢
  · simp [State.reset] at ha
  all_goals rfl

/-- Settles O40: a step inside a frame is an engine step, an access that does not reset, or a turn that passes. -/
theorem frameIsFrozen : Obligations.FrameIsFrozen := by
  intro s t ha hstep ht
  have hsetup : t.frameSetup = s.frameSetup := by
    rcases step_cases hstep with ⟨ts, u, -, hu, rfl⟩ | ⟨ts, -, -, rfl⟩ | ⟨m, off, ts, -, -, -, rfl⟩ |
      ⟨m, off, w, ts, -, -, -, rfl⟩ | ⟨ts, -, rfl⟩
    · exact (frameSetup_releaseHeld u).trans (hu.frameSetup ha)
    · rfl
    · rfl
    · exact frameSetup_hostWrite ht
    · simp [State.reset] at ht
  simpa [State.frameSetup, and_assoc] using hsetup

end Sys2Proof.Machine
end

section
/-! SUPPORT and PROOFS. Every step keeps the configuration registers at reset or accepted values, and the tables whole
where they are valid (spec/41_frame.md R161 to R166, spec/10_state.md R43, R58). -/

namespace Sys2Proof.Machine

/-! ### Accepted components and whole tables -/

/-- What `SET_COMP` accepts has legal fields (R165, R166). -/
theorem setCompCheck_none_compOk {ci : BitVec 2} {hs vs tq : BitVec 4} {s : State}
    (h : setCompCheck ci hs vs tq s = none) : compOk true ⟨hs, vs, tq⟩ = true := by
  obtain ⟨-, -, ⟨hhs, hvs⟩, htq⟩ := (setCompCheck_eq_none_iff ci hs vs tq s).1 h
  simp [compOk, legalFactor_eq, legalTableId_eq, hhs, hvs, htq]

theorem tableOk_iff (s : State) (t : Nat) :
    tableOk s t = true ↔ ∀ i < 64, (s.qt.read (qtKey t i)).isSome = s.qtv t := by
  simp [tableOk]

/-- A load makes its own table whole and valid, and leaves the other as it is. -/
theorem tableOk_commitLoadQt {s : State} {tq : BitVec 4} (htq : tq.toNat < 2) (e : Vector Word 64) {t : Nat}
    (h : tableOk s t = true) : tableOk (commitLoadQt tq e s) t = true := by
  rw [tableOk_iff] at h ⊢
  intro i hi
  by_cases ht : t = tq.toNat
  · have hentry := read_commitLoadQt_zz (tq := tq) (e := e) (s := s) (zzInv_lt hi)
    rw [zz_zzInv hi] at hentry
    rw [ht, hentry, qtv_commitLoadQt htq, Option.isSome_some]
  · have hvalid : (commitLoadQt tq e s).qtv t = s.qtv t := by
      rw [commitLoadQt, setQtv_qtv, if_neg (fun hc => ht hc.1)]
      rfl
    have hkey : qtKey t i < qtKey tq.toNat 0 ∨ qtKey tq.toNat 64 ≤ qtKey t i := by
      unfold qtKey
      omega
    rw [hvalid, read_commitLoadQt_outside hkey]
    exact h i hi

/-! ### The commits -/

theorem configOk_commitSetFrame {s : State} (h : s.ConfigOk) {nc : BitVec 4} {height width : BitVec 16}
    (hnc : setFrameCheck nc s = none) (hdim : dimensionCheck s.params width height = none) :
    (commitSetFrame nc height width s).ConfigOk := by
  obtain ⟨-, -, h0, h1, h2, ht0, ht1⟩ := h
  obtain ⟨-, hcount⟩ := (setFrameCheck_eq_none_iff nc s).1 hnc
  exact ⟨fun _ => ⟨(legalCount_iff nc).2 hcount, hdim⟩, fun hv => absurd hv (by simp), h0, h1, h2, ht0, ht1⟩

theorem configOk_setComp {s : State} (h : s.ConfigOk) {c : Nat} {k : CompCfg} (hk : compOk true k = true) :
    (s.setComp c k).ConfigOk := by
  obtain ⟨hcfg, hreset, h0, h1, h2, ht0, ht1⟩ := h
  match c with
  | 0 => exact ⟨hcfg, hreset, hk, h1, h2, ht0, ht1⟩
  | 1 => exact ⟨hcfg, hreset, h0, hk, h2, ht0, ht1⟩
  | 2 => exact ⟨hcfg, hreset, h0, h1, hk, ht0, ht1⟩
  | c + 3 => exact ⟨hcfg, hreset, h0, h1, h2, ht0, ht1⟩

theorem configOk_commitLoadQt {s : State} (h : s.ConfigOk) {tq : BitVec 4} (htq : tq.toNat < 2)
    (e : Vector Word 64) : (commitLoadQt tq e s).ConfigOk := by
  obtain ⟨hcfg, hreset, h0, h1, h2, ht0, ht1⟩ := h
  refine ⟨?_, ?_, ?_, ?_, ?_, tableOk_commitLoadQt htq e ht0, tableOk_commitLoadQt htq e ht1⟩ <;>
    simpa [commitLoadQt]

/-- Every commit keeps the configuration legal: three commands write it, each what its checks accept. -/
theorem configOk_commitOf {s : State} (h : s.ConfigOk) {i : Instr} (hi : passes i s) : (commitOf i s).ConfigOk := by
  cases i with
  | nop | start | block | finish => exact h
  | setFrame nc height width => exact configOk_commitSetFrame h hi.1 hi.2
  | setComp ci hs vs tq => exact configOk_setComp h (setCompCheck_none_compOk hi)
  | loadQt pq tq entries => exact configOk_commitLoadQt h (Nat.lt_succ_of_le (loadQtCheck_none_table hi.1)) entries

/-! ### The steps -/

/-- What an engine step leaves keeps the configuration legal: an error, and taking or staging words, write none of it. -/
theorem EngineLeaves.configOk {s u : State} (hu : EngineLeaves s u) (h : s.ConfigOk) : u.ConfigOk := by
  cases hu with
  | error w rest v c op j hf hp hc hv => rcases hv with rfl | ⟨op', hdr, n, -, -, rfl⟩ <;> exact h
  | header w rest op hf hp hd hl hc => exact h
  | staged w rest op hdr n hf hp hc hl => exact h
  | oneWord w rest op hf hp hd hl hi => exact configOk_commitOf (s := popWord rest s) h hi
  | lastWord w rest op hdr n v hf hp hw hl hv hi =>
    subst hv
    exact configOk_commitOf (s := commandComplete (stage (n + 1) w (popWord rest s))) h hi

theorem configOk_releaseHeld {s : State} (h : s.ConfigOk) : (releaseHeld s).ConfigOk := by
  rcases releaseHeld_cases s with ⟨-, hr⟩ | ⟨-, -, hr⟩ | ⟨w, ws, -, -, -, hr⟩ | ⟨-, -, -, hr⟩ <;> rw [hr] <;> exact h

theorem configOk_resetEngine (s : State) : (resetEngine s).ConfigOk := by
  obtain ⟨-, hreset, hrest⟩ := configOk_reset
  exact ⟨fun hv => absurd hv (by simp [State.reset]), hreset, hrest⟩

theorem configOk_hostWrite {s : State} (h : s.ConfigOk) (m : Master) (off : Nat) (w : Word) :
    (hostWrite m off w s).ConfigOk := by
  rcases hostWrite_cases m off w s with hw | hw | hw | ⟨-, -, hw⟩ | ⟨-, -, hw⟩ | hw <;> rw [hw]
  · exact configOk_resetEngine s
  all_goals exact h

/-- Settles O58: an engine step keeps the configuration legal by its commit's lemma, and the host can only reset it. -/
theorem stepKeepsConfigurationLegal : Obligations.StepKeepsConfigurationLegal := by
  intro s t h hstep
  rcases step_cases hstep with ⟨ts, u, -, hu, rfl⟩ | ⟨ts, -, -, rfl⟩ | ⟨m, off, ts, -, -, -, rfl⟩ |
    ⟨m, off, w, ts, -, -, -, rfl⟩ | ⟨ts, -, rfl⟩
  · exact configOk_releaseHeld (hu.configOk h)
  · exact h
  · exact h
  · exact configOk_hostWrite (s := { s with agenda := ts }) h m off.toNat w
  · exact configOk_resetEngine _

end Sys2Proof.Machine
end

section
/-! SUPPORT and PROOFS. `NOP`, `SET_FRAME` and `SET_COMP`: what each comes to, by its checks in their order
(spec/41_frame.md R160 to R167). -/

namespace Sys2Proof.Machine

/-! ### NOP (R160) -/

/-- Every bit of the header of a `NOP` is 0: the others of its opcode are reserved (R124, R126). -/
theorem decodeHeader_eq_ok_nop_iff (w : Word) : decodeHeader w = .ok .nop ↔ w = 0 := by
  rw [decodeHeader_eq_ok_iff, show Opcode.nop.mask = BitVec.allOnes 32 from rfl, BitVec.and_allOnes]
  rfl

/-- Settles O15: its word completes the command, whose meaning is the identity. -/
theorem nopDoesNothing : Obligations.NopDoesNothing := by
  refine ⟨fun s => rfl, fun s rest ha hheld hp hf => ?_, fun w hop hw => ?_⟩
  · have hstep := completeCommandIsRun.1 s s.agenda 0 rest .nop (.inl ⟨ha, ha⟩) hp hf rfl rfl
    exact hstep.trans (afterEngine_exec_of_held_nil .nop (t := popWord rest s) hheld)
  · have hcode : opByte w = Opcode.nop.code := hop
    have hres : w &&& Opcode.nop.resMask ≠ 0 := fun hzero =>
      hw ((decodeHeader_eq_ok_nop_iff w).1 ((decodeHeader_of_opByte hcode).trans (if_pos hzero)))
    exact (decodeHeader_of_opByte hcode).trans (if_neg hres)

/-! ### SET_FRAME (R161, R162, R163) -/

section

variable {nc : BitVec 4} {height width : BitVec 16} {s : State}

theorem exec_setFrame_of_setFrameCheck {c : Cause} (h : setFrameCheck nc s = some c) :
    exec (.setFrame nc height width) s = .next (raiseError c Opcode.setFrame.code 0 s) :=
  exec_of_headerCheck (i := .setFrame nc height width) (by simpa [headerCheck, Instr.opcode] using h)

theorem exec_setFrame_of_dimensionCheck {c : Cause} (h : setFrameCheck nc s = none)
    (hd : dimensionCheck s.params width height = some c) :
    exec (.setFrame nc height width) s = .next (raiseError c Opcode.setFrame.code 1 s) := by
  simp only [exec, execSetFrame, h, hd]

theorem setFrameCheck_of_frameActive (h : s.frameActive = true) : setFrameCheck nc s = some .sequence := by
  simp [setFrameCheck, h]

theorem setFrameCheck_of_count (h : s.frameActive = false) (hnc : ¬(nc = 1 ∨ nc = 3)) :
    setFrameCheck nc s = some .unsupportedComponentCount := by
  simp [setFrameCheck, h, (legalCount_iff nc).not.2 hnc]

end

theorem dimensionCheck_of_size {p : Params} {width height : BitVec 16}
    (h : 1 ≤ width.toNat ∧ width.toNat ≤ p.maxFrameW ∧ 1 ≤ height.toNat ∧ height.toNat ≤ p.maxFrameH) :
    dimensionCheck p width height = none :=
  if_neg (by omega)

theorem dimensionCheck_of_not_size {p : Params} {width height : BitVec 16}
    (h : ¬(1 ≤ width.toNat ∧ width.toNat ≤ p.maxFrameW ∧ 1 ≤ height.toNat ∧ height.toNat ≤ p.maxFrameH)) :
    dimensionCheck p width height = some .invalidDimension :=
  if_pos (by omega)

/-- Settles O16: each clause is one check of the header, the check of the dimensions, or the commit. -/
theorem setFrameOutcome : Obligations.SetFrameOutcome := by
  intro nc height width s
  have hheader : s.frameActive = false → nc = 1 ∨ nc = 3 → setFrameCheck nc s = none :=
    fun ha hnc => (setFrameCheck_eq_none_iff nc s).2 ⟨ha, hnc⟩
  exact ⟨fun ha => exec_setFrame_of_setFrameCheck (setFrameCheck_of_frameActive ha),
    fun ha h1 h3 => exec_setFrame_of_setFrameCheck (setFrameCheck_of_count ha (not_or.2 ⟨h1, h3⟩)),
    fun ha hnc hsize => exec_setFrame_of_dimensionCheck (hheader ha hnc) (dimensionCheck_of_not_size hsize),
    fun ha hnc hsize => exec_of_passes (i := .setFrame nc height width)
      ⟨hheader ha hnc, dimensionCheck_of_size hsize⟩⟩

/-! ### SET_COMP (R165, R166, R167) -/

section

variable {ci : BitVec 2} {hs vs tq : BitVec 4} {s : State}

theorem exec_setComp_of_setCompCheck {c : Cause} (h : setCompCheck ci hs vs tq s = some c) :
    exec (.setComp ci hs vs tq) s = .next (raiseError c Opcode.setComp.code 0 s) :=
  exec_of_headerCheck (i := .setComp ci hs vs tq) (by simpa [headerCheck, Instr.opcode] using h)

theorem setCompCheck_of_frameActive (h : s.frameActive = true) : setCompCheck ci hs vs tq s = some .sequence := by
  simp [setCompCheck, h]

theorem setCompCheck_of_component (h : s.frameActive = false) (hci : ci = 3) :
    setCompCheck ci hs vs tq s = some .unknownComponent := by
  simp [setCompCheck, h, hci]

theorem legalFactors_iff (hs vs : BitVec 4) :
    (legalFactor hs = true ∧ legalFactor vs = true) ↔
      1 ≤ hs.toNat ∧ hs.toNat ≤ 4 ∧ 1 ≤ vs.toNat ∧ vs.toNat ≤ 4 := by
  simp [legalFactor, and_assoc]

theorem setCompCheck_of_factors (h : s.frameActive = false) (hci : ci ≠ 3)
    (hf : ¬(1 ≤ hs.toNat ∧ hs.toNat ≤ 4 ∧ 1 ≤ vs.toNat ∧ vs.toNat ≤ 4)) :
    setCompCheck ci hs vs tq s = some .invalidSampling := by
  have hillegal : (!legalFactor hs || !legalFactor vs) = true := by
    rw [← Bool.not_and, Bool.not_eq_true', ← Bool.not_eq_true, Bool.and_eq_true, legalFactors_iff]
    exact hf
  simp only [setCompCheck, h, hci, hillegal, Bool.false_eq_true, if_false, if_true]

theorem setCompCheck_of_tableId (h : s.frameActive = false) (hci : ci ≠ 3)
    (hf : 1 ≤ hs.toNat ∧ hs.toNat ≤ 4 ∧ 1 ≤ vs.toNat ∧ vs.toNat ≤ 4) (htq : ¬(tq = 0 ∨ tq = 1)) :
    setCompCheck ci hs vs tq s = some .invalidTableId := by
  obtain ⟨hhs, hvs⟩ := (legalFactors_iff hs vs).2 hf
  have hid : legalTableId tq = false := by simpa [legalTableId_eq, tableIdLegal] using htq
  simp only [setCompCheck, h, hci, hhs, hvs, hid, Bool.not_true, Bool.not_false, Bool.or_self, Bool.false_eq_true,
    if_false, if_true]

theorem setCompCheck_of_legal (h : s.frameActive = false) (hci : ci ≠ 3)
    (hf : 1 ≤ hs.toNat ∧ hs.toNat ≤ 4 ∧ 1 ≤ vs.toNat ∧ vs.toNat ≤ 4) (htq : tq = 0 ∨ tq = 1) :
    setCompCheck ci hs vs tq s = none := by
  obtain ⟨hhs, hvs⟩ := (legalFactors_iff hs vs).2 hf
  rw [legalFactor_eq] at hhs hvs
  exact (setCompCheck_eq_none_iff ci hs vs tq s).2 ⟨h, hci, ⟨hhs, hvs⟩, by simpa [tableIdLegal] using htq⟩

end

/-- A write of a component's configuration changes the component registers and their valid bits alone. -/
theorem setComp_frame (s : State) (c : Nat) (k : CompCfg) :
    s.setComp c k = { s with
      comp0 := (s.setComp c k).comp0, comp1 := (s.setComp c k).comp1, comp2 := (s.setComp c k).comp2
      comp0Valid := (s.setComp c k).comp0Valid, comp1Valid := (s.setComp c k).comp1Valid
      comp2Valid := (s.setComp c k).comp2Valid } := by
  match c with
  | 0 | 1 | 2 | _ + 3 => rfl

/-- Settles O17: each clause is one check of the header, or the commit. -/
theorem setCompOutcome : Obligations.SetCompOutcome := by
  intro ci hs vs tq s factorsLegal
  refine ⟨fun ha => exec_setComp_of_setCompCheck (setCompCheck_of_frameActive ha),
    fun ha hci => exec_setComp_of_setCompCheck (setCompCheck_of_component ha hci),
    fun ha hci hf => exec_setComp_of_setCompCheck (setCompCheck_of_factors ha hci hf),
    fun ha hci hf h0 h1 => exec_setComp_of_setCompCheck (setCompCheck_of_tableId ha hci hf (not_or.2 ⟨h0, h1⟩)),
    fun ha hci hf htq => ?_⟩
  have hlt : ci.toNat < 3 := by
    have hne : ci.toNat ≠ 3 := fun h3 => hci (BitVec.eq_of_toNat_eq h3)
    omega
  refine ⟨s.setComp ci.toNat ⟨hs, vs, tq⟩,
    exec_of_passes (i := .setComp ci hs vs tq) (setCompCheck_of_legal ha hci hf htq), setComp_frame .., ?_, ?_,
    fun c hc => ⟨?_, ?_⟩⟩
  · rw [setComp_comp, if_pos ⟨rfl, hlt⟩]
  · rw [setComp_compv, if_pos ⟨rfl, hlt⟩]
  · rw [setComp_comp, if_neg (fun h => hc h.1)]
  · rw [setComp_compv, if_neg (fun h => hc h.1)]

end Sys2Proof.Machine
end

section
/-! SUPPORT and PROOFS. The MCU grid, the order of the blocks (spec/41_frame.md R171 to R178), and what `START` comes to
(R170). -/

namespace Sys2Proof.Machine

/-! ### The grid (R171) -/

theorem cdiv_eq_ceilDiv (a b : Nat) : cdiv a b = a ⌈/⌉ b := rfl

/-- Dividing upwards twice is dividing upwards by the product. -/
theorem cdiv_cdiv {a b c : Nat} (hb : 0 < b) (hc : 0 < c) : cdiv (cdiv a b) c = cdiv a (c * b) := by
  refine eq_of_forall_ge_iff fun n => ?_
  simp only [cdiv_eq_ceilDiv, ceilDiv_le_iff_le_mul, hb, hc, Nat.mul_pos hc hb]
  rw [Nat.mul_left_comm, Nat.mul_assoc]

/-- Settles O19: the two ceiling divisions are one, which covers the size. -/
theorem gridCoversFrame : Obligations.GridCoversFrame := by
  intro size factor hlo hhi hf _
  obtain ⟨hcovers, hexceeds⟩ := mcuCount_covers hf hlo
  exact ⟨hcovers, hexceeds, cdiv_cdiv hf (by decide), mcuCount_le hhi hf⟩

/-! ### The order of the blocks (R173, R177, R178) -/

/-- A block's component, its place among the component's blocks of the MCU, and the row and column that follow. -/
theorem blockPosition_spec {comps : List CompCfg} (mcux : Nat) {n c br bc : Nat} {k : CompCfg}
    (hbpm : 0 < blocksPerMcu comps) (hp : blockPosition comps mcux n = ⟨c, br, bc⟩) (hk : comps[c]? = some k) :
    ∃ i, i < blocksOf k ∧ n % blocksPerMcu comps = componentOffset comps c + i ∧
      br = n / blocksPerMcu comps / mcux * k.vs.toNat + i / k.hs.toNat ∧
      bc = n / blocksPerMcu comps % mcux * k.hs.toNat + i % k.hs.toNat := by
  obtain ⟨k', d, hd, hk', hoff, hi⟩ := findComponent_spec comps 0 _ (Nat.mod_lt n hbpm)
  rw [Nat.zero_add] at hd
  rw [blockPosition_eq (Prod.ext hd rfl) hk', BlockPos.mk.injEq] at hp
  obtain ⟨rfl, hbr, hbc⟩ := hp
  obtain rfl : k' = k := Option.some.inj (hk'.symm.trans hk)
  exact ⟨_, hi, hoff.symm, hbr.symm, hbc.symm⟩

/-- The component of a block is one of the list. -/
theorem blockPosition_c_lt {comps : List CompCfg} (mcux n : Nat) (hbpm : 0 < blocksPerMcu comps) :
    (blockPosition comps mcux n).c < comps.length := by
  obtain ⟨k, d, hd, hk, -, -⟩ := findComponent_spec comps 0 _ (Nat.mod_lt n hbpm)
  rw [Nat.zero_add] at hd
  rw [blockPosition_eq (Prod.ext hd rfl) hk]
  exact (List.getElem?_eq_some_iff.1 hk).1

/-- Settles O20: the place in the MCU is what remains of the block's number there. -/
theorem blockPositionFormula : Obligations.BlockPositionFormula := by
  intro comps mcux n hbpm _ j mx my p
  refine ⟨blockPosition_c_lt mcux n hbpm, fun k hk => ?_⟩
  obtain ⟨i, hi, hj, hbr, hbc⟩ := blockPosition_spec mcux hbpm (rfl : blockPosition comps mcux n = p) hk
  have hj : j = componentOffset comps p.c + i := hj
  rw [hj, Nat.add_sub_cancel_left]
  exact ⟨Nat.le_add_right .., Nat.add_lt_add_left hi _, hbr, hbc⟩

/-- A position is that of one block number alone: it gives the MCU and the place in it. -/
theorem eq_of_blockPosition {comps : List CompCfg} {mcux n c br bc : Nat} {k : CompCfg}
    (hbpm : 0 < blocksPerMcu comps) (hp : blockPosition comps mcux n = ⟨c, br, bc⟩) (hk : comps[c]? = some k) :
    n = blocksPerMcu comps * (mcux * (br / k.vs.toNat) + bc / k.hs.toNat) +
      (componentOffset comps c + (k.hs.toNat * (br % k.vs.toNat) + bc % k.hs.toNat)) := by
  obtain ⟨i, hi, hj, rfl, rfl⟩ := blockPosition_spec mcux hbpm hp hk
  have hhs : 0 < k.hs.toNat := Nat.pos_of_lt_mul_right hi
  have hrow : i / k.hs.toNat < k.vs.toNat := Nat.div_lt_of_lt_mul hi
  have hcol : i % k.hs.toNat < k.hs.toNat := Nat.mod_lt i hhs
  rw [Nat.mul_comm _ k.vs.toNat, Nat.mul_comm _ k.hs.toNat, Nat.mul_add_div (Nat.zero_lt_of_lt hrow),
    Nat.mul_add_div hhs, Nat.mul_add_mod, Nat.mul_add_mod, Nat.div_eq_of_lt hrow, Nat.div_eq_of_lt hcol,
    Nat.mod_eq_of_lt hrow, Nat.mod_eq_of_lt hcol, Nat.add_zero, Nat.add_zero, Nat.div_add_mod, Nat.div_add_mod, ← hj,
    Nat.div_add_mod]

/-- Settles O21: a block has its place inside a plane, each place is some block's, and it names the block. -/
theorem blockPositionBijection : Obligations.BlockPositionBijection := by
  intro comps mcux mcuy _
  refine ⟨fun n hn => blockPosition_inside hn, fun c k br bc hk hbr hbc => ?_⟩
  obtain ⟨n, hn, hp⟩ := exists_blockPosition hk hbr hbc
  have hbpm : 0 < blocksPerMcu comps := Nat.pos_of_lt_mul_left hn
  exact ⟨n, ⟨hn, hp⟩, fun n' ⟨_, hp'⟩ =>
    (eq_of_blockPosition hbpm hp' hk).trans (eq_of_blockPosition hbpm hp hk).symm⟩

/-! ### The components in use (R171, R172) -/

theorem activeComps_eq_map {s : State} (hn : s.ncomp.toNat ≤ 3) :
    s.activeComps = (List.range s.ncomp.toNat).map s.comp := by
  have hall : [s.comp0, s.comp1, s.comp2] = (List.range 3).map s.comp := rfl
  rw [State.activeComps, hall, ← List.map_take, List.take_range, Nat.min_eq_left hn]

theorem blocksPerMcu_activeComps {s : State} (hn : s.ncomp.toNat ≤ 3) :
    blocksPerMcu s.activeComps =
      ∑ c ∈ Finset.range s.ncomp.toNat, (s.comp c).hs.toNat * (s.comp c).vs.toNat := by
  rw [blocksPerMcu, activeComps_eq_map hn, List.map_map]
  rfl

/-- A least upper bound above 0 is attained. -/
theorem exists_eq_of_least {comps : List CompCfg} {f : CompCfg → Nat} {m : Nat} (hm : 1 ≤ m)
    (hle : ∀ k ∈ comps, f k ≤ m) (hleast : ∀ b, (∀ k ∈ comps, f k ≤ b) → m ≤ b) : ∃ k ∈ comps, f k = m := by
  by_contra! hne
  have hless := hleast (m - 1) fun k hk => Nat.le_sub_one_of_lt (Nat.lt_of_le_of_ne (hle k hk) (hne k hk))
  omega

/-- The greatest factors are those of components in use. -/
theorem exists_maxFactors {comps : List CompCfg} (hh : 1 ≤ maxHs comps) (hv : 1 ≤ maxVs comps) :
    (∃ k ∈ comps, k.hs.toNat = maxHs comps) ∧ ∃ k ∈ comps, k.vs.toNat = maxVs comps :=
  ⟨exists_eq_of_least hh (fun _ => le_maxHs) fun _ => maxHs_le,
    exists_eq_of_least hv (fun _ => le_maxVs) fun _ => maxVs_le⟩

/-! ### START (R170) -/

theorem toNat_ofNat_of_lt {w n : Nat} (h : n < 2 ^ w) : (BitVec.ofNat w n).toNat = n :=
  (BitVec.toNat_ofNat ..).trans (Nat.mod_eq_of_lt h)

section

variable {s : State}

theorem exec_start_of_startCheck {c : Cause} (h : startCheck s = some c) :
    exec .start s = .next (raiseError c Opcode.start.code 0 s) :=
  exec_of_headerCheck (i := .start) h

theorem startCheck_of_frameActive (h : s.frameActive = true) : startCheck s = some .sequence := by
  simp [startCheck, h]

theorem startCheck_of_incomplete (h : s.frameActive = false)
    (hinc : s.cfgValid = false ∨ ∃ c, c < s.ncomp.toNat ∧ s.compv c = false) :
    startCheck s = some .incompleteConfig := by
  have hcheck : (!s.cfgValid || (List.range s.ncomp.toNat).any (fun c => !s.compv c)) = true := by simpa using hinc
  simp only [startCheck, h, hcheck, Bool.false_eq_true, if_false, if_true]

theorem startCheck_of_undefinedQt (h : s.frameActive = false)
    (hinc : ¬(s.cfgValid = false ∨ ∃ c, c < s.ncomp.toNat ∧ s.compv c = false))
    (hqt : ∃ c, c < s.ncomp.toNat ∧ s.qtv (s.comp c).tq.toNat = false) : startCheck s = some .undefinedQt := by
  have hcheck : ¬(!s.cfgValid || (List.range s.ncomp.toNat).any (fun c => !s.compv c)) = true := by simpa using hinc
  have htable : (List.range s.ncomp.toNat).any (fun c => !s.qtv (s.comp c).tq.toNat) = true := by simpa using hqt
  simp only [startCheck, h, hcheck, htable, Bool.false_eq_true, if_false, if_true]

theorem startCheck_of_complete (h : s.frameActive = false)
    (hinc : ¬(s.cfgValid = false ∨ ∃ c, c < s.ncomp.toNat ∧ s.compv c = false))
    (hqt : ¬∃ c, c < s.ncomp.toNat ∧ s.qtv (s.comp c).tq.toNat = false) : startCheck s = none := by
  simp only [not_or, not_exists, not_and, Bool.not_eq_false] at hinc hqt
  exact (startCheck_eq_none_iff s).2 ⟨h, hinc.1, fun c hc => ⟨hinc.2 c hc, hqt c hc⟩⟩

/-- The registers that `START` writes hold what it computes. -/
theorem toNat_commitStart (hh : 1 ≤ maxHs s.activeComps) (hv : 1 ≤ maxVs s.activeComps)
    (hf : ∀ k ∈ s.activeComps, k.hs.toNat ≤ 4 ∧ k.vs.toNat ≤ 4) :
    (commitStart s).hmax.toNat = maxHs s.activeComps ∧ (commitStart s).vmax.toNat = maxVs s.activeComps ∧
    (commitStart s).mcux.toNat = mcuCount s.frameW.toNat (maxHs s.activeComps) ∧
    (commitStart s).mcuy.toNat = mcuCount s.frameH.toNat (maxVs s.activeComps) ∧
    (commitStart s).blktotal.toNat =
      (commitStart s).mcux.toNat * (commitStart s).mcuy.toNat * blocksPerMcu s.activeComps := by
  have hh4 : maxHs s.activeComps ≤ 4 := maxHs_le fun k hk => (hf k hk).1
  have hv4 : maxVs s.activeComps ≤ 4 := maxVs_le fun k hk => (hf k hk).2
  have hx := mcuCount_le (Nat.le_of_lt_succ s.frameW.isLt) hh
  have hy := mcuCount_le (Nat.le_of_lt_succ s.frameH.isLt) hv
  have hlen : s.activeComps.length ≤ 3 := List.length_take_le' ..
  have hbpm : blocksPerMcu s.activeComps ≤ 48 := (blocksPerMcu_le hf).trans (by omega)
  have htotal : mcuCount s.frameW.toNat (maxHs s.activeComps) * mcuCount s.frameH.toNat (maxVs s.activeComps) *
      blocksPerMcu s.activeComps < 2 ^ 32 :=
    calc _ ≤ 8192 * 8192 * 48 := Nat.mul_le_mul (Nat.mul_le_mul hx hy) hbpm
      _ < 2 ^ 32 := by norm_num
  have hmcux : (commitStart s).mcux.toNat = mcuCount s.frameW.toNat (maxHs s.activeComps) :=
    toNat_ofNat_of_lt (by omega)
  have hmcuy : (commitStart s).mcuy.toNat = mcuCount s.frameH.toNat (maxVs s.activeComps) :=
    toNat_ofNat_of_lt (by omega)
  refine ⟨toNat_ofNat_of_lt (by omega), toNat_ofNat_of_lt (by omega), hmcux, hmcuy, ?_⟩
  rw [hmcux, hmcuy]
  exact toNat_ofNat_of_lt htotal

end

/-- Settles O18: each clause is one check of the header, or the commit, whose registers hold the grid of the rules. -/
theorem startOutcome : Obligations.StartOutcome := by
  intro s incomplete undefinedQt
  refine ⟨fun ha => exec_start_of_startCheck (startCheck_of_frameActive ha),
    fun ha hinc => exec_start_of_startCheck (startCheck_of_incomplete ha hinc),
    fun ha hinc hqt => exec_start_of_startCheck (startCheck_of_undefinedQt ha hinc hqt),
    fun ha hinc hqt hcount hfactors => ?_⟩
  have hn : 1 ≤ s.ncomp.toNat ∧ s.ncomp.toNat ≤ 3 := by rcases hcount with h | h <;> simp [h]
  have hmem : ∀ c < s.ncomp.toNat, s.comp c ∈ s.activeComps :=
    fun c hc => List.mem_of_getElem? (activeComps_get hn.2 hc)
  have hfour : ∀ k ∈ s.activeComps, k.hs.toNat ≤ 4 ∧ k.vs.toNat ≤ 4 := fun k hk => by
    obtain ⟨c, hc, rfl⟩ := mem_activeComps hn.2 hk
    obtain ⟨-, hhs, -, hvs⟩ := hfactors c hc
    exact ⟨hhs, hvs⟩
  obtain ⟨hhs, -, hvs, -⟩ := hfactors 0 hn.1
  have hh := hhs.trans (le_maxHs (hmem 0 hn.1))
  have hv := hvs.trans (le_maxVs (hmem 0 hn.1))
  obtain ⟨hhmax, hvmax, hmcux, hmcuy, htotal⟩ := toNat_commitStart hh hv hfour
  obtain ⟨⟨kh, hkh, hkhmax⟩, ⟨kv, hkv, hkvmax⟩⟩ := exists_maxFactors hh hv
  refine ⟨commitStart s, exec_of_passes (i := .start) (startCheck_of_complete ha hinc hqt), rfl,
    fun c hc => ⟨hhmax ▸ le_maxHs (hmem c hc), hvmax ▸ le_maxVs (hmem c hc)⟩, ?_, ?_, ?_, ?_, ?_⟩
  · obtain ⟨c, hc, rfl⟩ := mem_activeComps hn.2 hkh
    exact ⟨c, hc, BitVec.eq_of_toNat_eq (hkhmax.trans hhmax.symm)⟩
  · obtain ⟨c, hc, rfl⟩ := mem_activeComps hn.2 hkv
    exact ⟨c, hc, BitVec.eq_of_toNat_eq (hkvmax.trans hvmax.symm)⟩
  · rw [hmcux, hhmax, mcuCount, cdiv_eq_ceilDiv, cdiv_eq_ceilDiv]
  · rw [hmcuy, hvmax, mcuCount, cdiv_eq_ceilDiv, cdiv_eq_ceilDiv]
  · rw [htotal, blocksPerMcu_activeComps hn.2]

end Sys2Proof.Machine
end

section
/-! SUPPORT and PROOFS. Dequantization, the zigzag reorder and the inverse transform, entry by entry, and how wide their
values are (spec/42_block.md R193 to R197, R200, R203). -/

namespace Sys2Proof.Machine

open Finset (range)

/-! ### Dequantization and reorder (R193, R194) -/

theorem getElem?_dequantize (s : State) (t : Nat) (coefs : List Word) {i : Nat} (hi : i < 64) :
    (dequantize s t coefs)[i]? =
      some (coefValue (coefs.getD (zzInv i) 0) * ((qtEntry s t i).toNat : Int)) := by
  have hcoef : (coefs.map coefValue).getD (zzInv i) 0 = coefValue (coefs.getD (zzInv i) 0) :=
    List.getD_map coefs 0 coefValue
  rw [dequantize, List.getElem?_zipWith, getElem?_fromZigzag _ _ hi, List.getElem?_range hi, hcoef]

/-- Raster position `ZZ[k]` holds the product of coefficient `k`. -/
theorem getD_dequantize_zz (s : State) (t : Nat) (coefs : Vector Word 64) {k : Nat} (hk : k < 64) :
    (dequantize s t coefs.toList).getD (zz k) 0 = coefValue coefs[k] * ((qtEntry s t (zz k)).toNat : Int) := by
  rw [List.getD_eq_getElem?_getD, getElem?_dequantize s t _ (zz_lt hk), zzInv_zz hk]
  simp [hk]

theorem qtEntry_of_read {s : State} {t i : Nat} {q : BitVec 16} (h : s.qt.read (qtKey t i) = some q) :
    qtEntry s t i = q :=
  Memory.readOrFree_some h ..

/-! ### The widths of the factors (R192, R193, R195) -/

theorem coefValue_bounds (w : Word) : -32768 ≤ coefValue w ∧ coefValue w ≤ 32767 :=
  ⟨BitVec.le_toInt _, Int.le_of_lt_add_one BitVec.toInt_lt⟩

/-- The greatest product is that of the least coefficient and the greatest entry. -/
theorem abs_coef_mul_entry_le {c : Int} (h : -32768 ≤ c ∧ c ≤ 32767) (q : BitVec 16) :
    |c * (q.toNat : Int)| ≤ 2147450880 := by
  have hc : |c| ≤ 32768 := abs_le.2 (by omega)
  have hq : |(q.toNat : Int)| ≤ 65535 := abs_le.2 (by have := q.isLt; omega)
  calc |c * (q.toNat : Int)| = |c| * |(q.toNat : Int)| := abs_mul ..
    _ ≤ 32768 * 65535 := mul_le_mul hc hq (abs_nonneg _) (by norm_num)

theorem abs_le_of_mem_dequantize {s : State} {t : Nat} {coefs : List Word} {x : Int}
    (h : x ∈ dequantize s t coefs) : |x| ≤ 2147450880 := by
  obtain ⟨i, hi, rfl⟩ := List.mem_iff_getElem.1 h
  have hget := getElem?_dequantize s t coefs (dequantize_length s t coefs ▸ hi)
  rw [List.getElem?_eq_getElem hi, Option.some.injEq] at hget
  exact hget ▸ abs_coef_mul_entry_le (coefValue_bounds _) _

/-- A product survives the 32-bit register. -/
theorem toInt_ofInt_of_abs_le {x : Int} (h : |x| ≤ 2147450880) : (BitVec.ofInt 32 x).toInt = x := by
  obtain ⟨hlo, hhi⟩ := abs_le.1 h
  exact BitVec.toInt_ofInt_eq_self (by decide) (by omega) (by omega)

/-- Settles O27: the reorder puts each product at its raster position, and the factors' widths bound it. -/
theorem dequantizationIsExact : Obligations.DequantizationIsExact := by
  intro s t coefs k hk d
  have hd : d = coefValue coefs[k] * ((qtEntry s t (zz k)).toNat : Int) := getD_dequantize_zz s t coefs hk
  have hle : |d| ≤ 2147450880 := hd ▸ abs_coef_mul_entry_le (coefValue_bounds _) _
  exact ⟨hd, fun _ => qtEntry_of_read, (abs_le.1 hle).1, (abs_le.1 hle).2, toInt_ofInt_of_abs_le hle⟩

/-- What holds of all entries of a list and of the default holds of every entry read with it. -/
theorem forall_getD {α : Type} {P : α → Prop} {l : List α} {d : α} (hd : P d) (h : ∀ x ∈ l, P x) (i : Nat) :
    P (l.getD i d) := by
  rcases Nat.lt_or_ge i l.length with hi | hi
  · rw [List.getD_eq_getElem _ _ hi]
    exact h _ (List.getElem_mem hi)
  · rwa [List.getD_eq_default _ _ hi]

theorem abs_kConst_le (k n : Nat) : |kConst k n| ≤ 4017 :=
  have hrow : ∀ c ∈ kTable.getD k [], |c| ≤ 4017 :=
    forall_getD (P := fun row : List Int => ∀ c ∈ row, |c| ≤ 4017) (by decide) (by decide) k
  forall_getD (P := fun c : Int => |c| ≤ 4017) (by decide) hrow n

/-! ### The two passes (R196) -/

theorem sum8_eq_sum (f : Nat → Int) : sum8 f = ∑ u ∈ range 8, f u := by
  simp [sum8, Finset.sum_range_succ]

theorem getElem?_rowPass (d : List Int) {r x : Nat} (hr : r < 8) (hx : x < 8) :
    (rowPass d)[8 * r + x]? = some (∑ u ∈ range 8, kConst u x * d.getD (8 * r + u) 0) := by
  rw [rowPass, List.getElem?_map, List.getElem?_range (by omega), Option.map_some, sum8_eq_sum,
    show (8 * r + x) % 8 = x by omega, show (8 * r + x) / 8 = r by omega]

theorem getElem?_colPass (t : List Int) {y x : Nat} (hy : y < 8) (hx : x < 8) :
    (colPass t)[8 * y + x]? = some (∑ v ∈ range 8, kConst v y * t.getD (8 * v + x) 0) := by
  rw [colPass, List.getElem?_map, List.getElem?_range (by omega), Option.map_some, sum8_eq_sum,
    show (8 * y + x) % 8 = x by omega, show (8 * y + x) / 8 = y by omega]

/-- The value at row `y` and column `x` of the exact two-pass transform of the block `d`, given by raster index. -/
def inverseDct (d : Nat → Int) (y x : Nat) : Int :=
  ∑ v ∈ range 8, kConst v y * ∑ u ∈ range 8, kConst u x * d (8 * v + u)

theorem inverseDct_congr {d e : Nat → Int} (h : ∀ i < 64, d i = e i) (y x : Nat) :
    inverseDct d y x = inverseDct e y x := by
  refine Finset.sum_congr rfl fun v hv => congrArg _ (Finset.sum_congr rfl fun u hu => congrArg _ (h _ ?_))
  have hv' := Finset.mem_range.1 hv
  have hu' := Finset.mem_range.1 hu
  omega

theorem getElem?_colPass_rowPass (d : List Int) {y x : Nat} (hy : y < 8) (hx : x < 8) :
    (colPass (rowPass d))[8 * y + x]? = some (inverseDct (fun i => d.getD i 0) y x) := by
  rw [getElem?_colPass _ hy hx, inverseDct]
  refine congrArg some (Finset.sum_congr rfl fun v hv => ?_)
  rw [List.getD_eq_getElem?_getD, getElem?_rowPass d (Finset.mem_range.1 hv) hx, Option.getD_some]

/-- A block of 64 entries is its rows and columns. -/
theorem exists_row_column {α : Type} {l : List α} (hl : l.length = 64) {a : α} (h : a ∈ l) :
    ∃ y x, y < 8 ∧ x < 8 ∧ l[8 * y + x]? = some a := by
  obtain ⟨i, hi⟩ := List.mem_iff_getElem?.1 h
  have hlt : i < 64 := hl ▸ (List.getElem?_eq_some_iff.1 hi).1
  exact ⟨i / 8, i % 8, by omega, by omega, by rwa [Nat.div_add_mod]⟩

theorem rowPass_length (d : List Int) : (rowPass d).length = 64 := by simp [rowPass]

theorem colPass_length (t : List Int) : (colPass t).length = 64 := by simp [colPass]

theorem exists_inverseDct_of_mem {d : List Int} {a : Int} (h : a ∈ colPass (rowPass d)) :
    ∃ y x, y < 8 ∧ x < 8 ∧ a = inverseDct (fun i => d.getD i 0) y x := by
  obtain ⟨y, x, hy, hx, hget⟩ := exists_row_column (colPass_length _) h
  exact ⟨y, x, hy, hx, Option.some.inj (hget.symm.trans (getElem?_colPass_rowPass d hy hx))⟩

/-! ### The widths of the passes and of the samples (R197, R200) -/

/-- A pass widens its input by at most eight times the greatest constant. -/
theorem abs_sum_kConst_mul_le {f : Nat → Int} {b : Int} (h : ∀ u, |f u| ≤ b) (n : Nat) :
    |∑ u ∈ range 8, kConst u n * f u| ≤ 32136 * b :=
  calc |∑ u ∈ range 8, kConst u n * f u|
      ≤ ∑ u ∈ range 8, |kConst u n * f u| := Finset.abs_sum_le_sum_abs ..
    _ ≤ ∑ _u ∈ range 8, 4017 * b := Finset.sum_le_sum fun u _ => by
        rw [abs_mul]
        exact mul_le_mul (abs_kConst_le u n) (h u) (abs_nonneg _) (by norm_num)
    _ = 32136 * b := by rw [Finset.sum_const, Finset.card_range, nsmul_eq_mul]; ring

theorem abs_inverseDct_le {d : Nat → Int} {b : Int} (h : ∀ i, |d i| ≤ b) (y x : Nat) :
    |inverseDct d y x| ≤ 32136 * (32136 * b) :=
  abs_sum_kConst_mul_le (fun v => abs_sum_kConst_mul_le (fun u => h (8 * v + u)) x) y

theorem descale_eq (x : Int) : descale x = min 255 (max 0 ((x + 2 ^ 25) / 2 ^ 26 + 128)) := by
  simp only [descale, clamp, fdiv]
  split_ifs <;> omega

theorem descale_bounds (x : Int) : 0 ≤ descale x ∧ descale x ≤ 255 := by
  rw [descale_eq]
  omega

theorem toNat_ofInt_descale (x : Int) : ((BitVec.ofInt 8 (descale x)).toNat : Int) = descale x := by
  have hbounds := descale_bounds x
  rw [BitVec.toNat_ofInt]
  omega

/-- Settles O28: each pass multiplies the bound of its input by 8 × 4017, and the descaling divides it by 2^26. -/
theorem transformWidths : Obligations.TransformWidths := by
  refine ⟨coefValue_bounds, fun s t i => Nat.le_of_lt_succ (qtEntry s t i).isLt,
    fun s t coefs x => abs_le_of_mem_dequantize, abs_kConst_le, fun d hd => ⟨fun a ha => ?_, fun a ha => ?_⟩⟩
  all_goals have hentry : ∀ i, |d.getD i 0| ≤ 2147450880 := forall_getD (by norm_num) hd
  · obtain ⟨r, x, hr, hx, hget⟩ := exists_row_column (rowPass_length d) ha
    obtain rfl := Option.some.inj (hget.symm.trans (getElem?_rowPass d hr hx))
    exact (abs_sum_kConst_mul_le (fun u => hentry (8 * r + u)) x).trans_lt (by norm_num)
  · obtain ⟨y, x, -, -, rfl⟩ := exists_inverseDct_of_mem ha
    have hle := abs_le.1 (abs_inverseDct_le hentry y x)
    simp only [abs_lt, fdiv]
    exact ⟨by omega, by omega, by omega, descale_bounds _⟩

/-! ### Blocks with no coefficient but DC (R203) -/

theorem getD_dcBlock (a : Int) (i : Nat) : (a :: List.replicate 63 0).getD i 0 = if i = 0 then a else 0 := by
  cases i with
  | zero => rfl
  | succ i => rw [List.getD_cons_succ, List.getD_eq_getElem?_getD, List.getElem?_getD_replicate_default_eq,
      if_neg i.succ_ne_zero]

theorem kConst_zero_left : ∀ {n : Nat}, n < 8 → kConst 0 n = 2896 := by decide

/-- In both passes the constants of frequency 0 alone meet a nonzero value. -/
theorem inverseDct_dcBlock (a : Int) {y x : Nat} (hy : y < 8) (hx : x < 8) :
    inverseDct (fun i => (a :: List.replicate 63 0).getD i 0) y x = 8386816 * a := by
  have hrow : ∀ v, ∑ u ∈ range 8, kConst u x * (a :: List.replicate 63 0).getD (8 * v + u) 0 =
      if v = 0 then 2896 * a else 0 := fun v => by
    rw [Finset.sum_eq_single_of_mem 0 (by simp) fun u _ hu => by rw [getD_dcBlock, if_neg (by omega), mul_zero],
      kConst_zero_left hx, getD_dcBlock]
    simp
  rw [inverseDct, Finset.sum_eq_single_of_mem 0 (by simp) fun v _ hv => by rw [hrow, if_neg hv, mul_zero],
    kConst_zero_left hy, hrow, if_pos rfl]
  ring

theorem colPass_rowPass_dcBlock (a : Int) :
    colPass (rowPass (a :: List.replicate 63 0)) = List.replicate 64 (8386816 * a) := by
  refine List.eq_replicate_iff.2 ⟨colPass_length _, fun b hb => ?_⟩
  obtain ⟨y, x, hy, hx, rfl⟩ := exists_inverseDct_of_mem hb
  exact inverseDct_dcBlock a hy hx

theorem blockSamples_dcBlock (a : Int) :
    blockSamples (a :: List.replicate 63 0) = List.replicate 64 (BitVec.ofInt 8 (descale (8386816 * a))) := by
  rw [blockSamples, colPass_rowPass_dcBlock, List.map_replicate]

/-- Settles O30: the column pass of a DC-only block is constant, and the zero block is that of DC 0. -/
theorem dcOnlyBlock : Obligations.DcOnlyBlock :=
  ⟨fun a => ⟨colPass_rowPass_dcBlock a, descale_eq (8386816 * a) ▸ blockSamples_dcBlock a⟩, blockSamples_dcBlock 0⟩

end Sys2Proof.Machine
end

section
/-! SUPPORT and PROOFS. What `BLOCK` comes to, by its checks in their order, and every cell that its commit writes
(spec/42_block.md R190 to R199). -/

namespace Sys2Proof.Machine

/-! ### The samples of a block, and the rows they are written in (R197, R198) -/

/-- The sample at row `y` and column `x` of the block `d`. -/
def sampleOf (d : Nat → Int) (y x : Nat) : Byte := BitVec.ofInt 8 (descale (inverseDct d y x))

theorem getElem?_blockSamples (d : List Int) {y x : Nat} (hy : y < 8) (hx : x < 8) :
    (blockSamples d)[8 * y + x]? = some (sampleOf (fun i => d.getD i 0) y x) := by
  rw [blockSamples, List.getElem?_map, getElem?_colPass_rowPass d hy hx]
  rfl

theorem toNat_sampleOf (d : Nat → Int) (y x : Nat) :
    ((sampleOf d y x).toNat : Int) = min 255 (max 0 ((inverseDct d y x + 2 ^ 25) / 2 ^ 26 + 128)) :=
  (toNat_ofInt_descale _).trans (descale_eq _)

/-- Within one block the key tells the rows apart. -/
theorem row_eq_of_planeKey_eq {c r b y z x x' : Nat} (hx : x < 8) (hx' : x' < 8)
    (h : planeKey c (r + y) (b + x) = planeKey c (r + z) (b + x')) : y = z := by
  unfold planeKey at h
  omega

/-- A cell that is none of the written rows' samples keeps what it holds. -/
theorem read_writeRows_outside {pos : BlockPos} (p : List Byte) {ys : List Nat} {m : Memory 8} {a : Nat}
    (h : ∀ y ∈ ys, ∀ x < 8, a ≠ planeKey pos.c (8 * pos.br + y) (8 * pos.bc + x)) :
    Memory.read (writeRows pos p ys m) a = m.read a := by
  induction ys generalizing m with
  | nil => rfl
  | cons y ys ih =>
    rw [writeRows_cons, ih fun z hz => h z (List.mem_cons_of_mem _ hz)]
    refine Memory.read_write_outside _ _ ?_
    by_contra hin
    have hlen : ((p.drop (8 * y)).take 8).length ≤ 8 := List.length_take_le ..
    refine h y List.mem_cons_self (a - planeKey pos.c (8 * pos.br + y) (8 * pos.bc)) (by omega) ?_
    rw [← planeKey_add]
    omega

/-- Each sample of a written row reads as written: no other row writes its cell. -/
theorem read_writeRows_inside {pos : BlockPos} {p : List Byte} (hp : p.length = 64) {ys : List Nat} {x y : Nat}
    (hx : x < 8) (hy : y < 8) (hm : y ∈ ys) (m : Memory 8) :
    Memory.read (writeRows pos p ys m) (planeKey pos.c (8 * pos.br + y) (8 * pos.bc + x)) = p[8 * y + x]? := by
  induction ys generalizing m with
  | nil => simp at hm
  | cons z ys ih =>
    rw [writeRows_cons]
    by_cases hlater : y ∈ ys
    · exact ih hlater _
    · obtain rfl : y = z := (List.mem_cons.1 hm).resolve_right hlater
      have hlen : x < ((p.drop (8 * y)).take 8).length := by
        rw [List.length_take, List.length_drop]
        omega
      have houtside : ∀ z ∈ ys, ∀ x' < 8, planeKey pos.c (8 * pos.br + y) (8 * pos.bc + x) ≠
          planeKey pos.c (8 * pos.br + z) (8 * pos.bc + x') := fun z hz x' hx' heq =>
        hlater ((row_eq_of_planeKey_eq hx hx' heq).symm ▸ hz)
      rw [read_writeRows_outside p houtside, ← planeKey_add, Memory.read_write, if_pos (by omega),
        Nat.add_sub_cancel_left, List.getElem?_take_of_lt hx, List.getElem?_drop]

/-! ### The checks of `BLOCK` (R191, R192) -/

section

variable {coefs : Vector Word 64} {s : State}

theorem exec_block_of_blockCheck {c : Cause} (h : blockCheck s = some c) :
    exec (.block coefs) s = .next (raiseError c Opcode.block.code 0 s) :=
  exec_of_headerCheck (i := .block coefs) h

theorem blockCheck_of_not_open (h : s.frameActive = false ∨ s.blktotal.toNat ≤ s.blkcnt.toNat) :
    blockCheck s = some .sequence :=
  if_pos (by simpa using h)

theorem exec_block_of_coefCheck {k : Nat} (hh : blockCheck s = none) (hk : k < 64) (hbad : coefCheck coefs[k] ≠ none)
    (hbefore : ∀ j, (hj : j < k) → coefCheck coefs[j] = none) :
    exec (.block coefs) s = .next (raiseError .outOfRangeField Opcode.block.code (k + 1) s) := by
  obtain ⟨-, hcause, -⟩ := coefficientWordLegality coefs[k]
  have hfirst : firstBad coefCheck 1 coefs.toList = some (1 + k, .outOfRangeField) :=
    firstBad_of_first 1 (by simpa using hk) (by simpa using hcause hbad) fun j hj => by simpa using hbefore j hj
  simp only [exec, execBlock, hh, hfirst, Nat.add_comm 1 k]

theorem exec_block_of_legal (hh : blockCheck s = none) (hall : ∀ k, (hk : k < 64) → coefCheck coefs[k] = none) :
    exec (.block coefs) s = .next (commitBlock coefs s) := by
  refine exec_of_passes (i := .block coefs) ⟨hh, (firstBad_none_iff 1 _).2 fun w hw => ?_⟩
  obtain ⟨k, hk, rfl⟩ := List.mem_iff_getElem.1 hw
  simpa using hall k (by simpa using hk)

end

/-! ### The commit of `BLOCK` (R198, R199) -/

section

variable (pos : BlockPos) (d : List Int) (s : State) {y x : Nat}

theorem read_storeBlock_lastdq {i : Nat} (hd : d.length = 64) (hi : i < 64) :
    (storeBlock pos d s).lastdq.read i = some (BitVec.ofInt 32 (d.getD i 0)) := by
  rw [storeBlock_lastdq, Memory.read_write_inside _ _ (Nat.zero_le i) (by simp [hd, hi])]
  simp [hd, hi]

theorem read_storeBlock_lastblk (hy : y < 8) (hx : x < 8) :
    (storeBlock pos d s).lastblk.read (8 * y + x) = some (sampleOf (fun i => d.getD i 0) y x) := by
  rw [storeBlock_lastblk, Memory.read_write, if_pos (by rw [blockSamples_length]; omega), Nat.sub_zero,
    getElem?_blockSamples d hy hx]

theorem read_storeBlock_plane (hy : y < 8) (hx : x < 8) :
    (storeBlock pos d s).plane.read (planeKey pos.c (8 * pos.br + y) (8 * pos.bc + x)) =
      some (sampleOf (fun i => d.getD i 0) y x) := by
  rw [storeBlock_plane, writeBlock_eq_writeRows,
    read_writeRows_inside (blockSamples_length d) hx hy (List.mem_range.2 hy), getElem?_blockSamples d hy hx]

theorem read_storeBlock_plane_outside {a : Nat}
    (h : ∀ y x, y < 8 → x < 8 → a ≠ planeKey pos.c (8 * pos.br + y) (8 * pos.bc + x)) :
    (storeBlock pos d s).plane.read a = s.plane.read a := by
  rw [storeBlock_plane, writeBlock_eq_writeRows,
    read_writeRows_outside _ fun y hy x hx => h y x (List.mem_range.1 hy) hx]

end

/-- With the values of the coefficient words and the table's entries, the block is their products in raster order. -/
theorem getD_dequantize_of_read {s : State} {t : Nat} {coefs : Vector Word 64} {v : Nat → Int} {q : Nat → BitVec 16}
    (hv : ∀ k, (hk : k < 64) → -32768 ≤ v k ∧ v k ≤ 32767 ∧ coefs[k] = BitVec.ofInt 32 (v k))
    (hq : ∀ i, i < 64 → s.qt.read (qtKey t i) = some (q i)) {i : Nat} (hi : i < 64) :
    (dequantize s t coefs.toList).getD i 0 = v (zzInv i) * ((q i).toNat : Int) := by
  have hk := zzInv_lt hi
  obtain ⟨hlo, hhi, hword⟩ := hv (zzInv i) hk
  have hget := getD_dequantize_zz s t coefs hk
  obtain ⟨-, -, hvalue⟩ := coefficientWordLegality coefs[zzInv i]
  rwa [zz_zzInv hi, hword, hvalue _ hlo hhi, qtEntry_of_read (hq i hi)] at hget

/-- Settles O26: each clause is the check of the header, the first coefficient word that fails, or the commit, whose
memories hold the products and the samples of the two passes. -/
theorem blockOutcome : Obligations.BlockOutcome := by
  intro coefs s legal pos
  have hlegal : ∀ w, coefCheck w = none ↔ legal w := fun w => (coefficientWordLegality w).1
  have hheader := fun ha hcnt => (blockCheck_eq_none_iff s).2 ⟨ha, hcnt⟩
  refine ⟨fun hclosed => exec_block_of_blockCheck (blockCheck_of_not_open hclosed),
    fun ha hcnt j hj hbad hbefore => exec_block_of_coefCheck (hheader ha hcnt) hj ((hlegal _).not.2 hbad)
      fun k hk => (hlegal _).2 (hbefore k hk),
    fun ha hcnt v q hv hq => ?_⟩
  intro d t1 s2
  have hexec := exec_block_of_legal (hheader ha hcnt) fun k hk => (hlegal coefs[k]).2 ⟨v k, hv k hk⟩
  have hblock : ∀ i < 64, (dequantize s (s.comp pos.c).tq.toNat coefs.toList).getD i 0 = d i :=
    fun i hi => getD_dequantize_of_read hv hq hi
  have hsum : ∀ y x, inverseDct _ y x = s2 y x := inverseDct_congr hblock
  refine ⟨commitBlock coefs s, hexec, rfl, fun i hi => ?_, fun y x hy hx => ?_,
    fun a hout => read_storeBlock_plane_outside pos _ s hout⟩
  · obtain ⟨hlo, hhi, -⟩ := hv (zzInv i) (zzInv_lt hi)
    refine ⟨_, read_storeBlock_lastdq pos _ s (dequantize_length ..) hi, ?_⟩
    rw [hblock i hi]
    exact toInt_ofInt_of_abs_le (abs_coef_mul_entry_le ⟨hlo, hhi⟩ (q i))
  · refine ⟨_, ?_, read_storeBlock_lastblk pos _ s hy hx, read_storeBlock_plane pos _ s hy hx⟩
    rw [toNat_sampleOf, hsum]

end Sys2Proof.Machine
end

section
/-! SUPPORT and PROOFS. The transform's constants are the integers nearest to the scaled cosine basis (spec/42_block.md
R195): the cosines of the multiples of π / 16, their symmetries, and rational bounds on those of the first quadrant. -/

namespace Sys2Proof.Machine

/-! ### Cosines of the multiples of π / 16 -/

/-- The cosine of `m` sixteenths of π. -/
noncomputable def cosSixteenth (m : Nat) : ℝ := Real.cos (m * Real.pi / 16)

theorem cosSixteenth_eq {m : Nat} {x : ℝ} (h : m * Real.pi / 16 = x) : cosSixteenth m = Real.cos x :=
  congrArg Real.cos h

theorem cosSixteenth_four : cosSixteenth 4 = √2 / 2 :=
  (cosSixteenth_eq (by push_cast; ring)).trans Real.cos_pi_div_four

theorem cosSixteenth_eight : cosSixteenth 8 = 0 :=
  (cosSixteenth_eq (by push_cast; ring)).trans Real.cos_pi_div_two

theorem cosSixteenth_add_half_turn (m : Nat) : cosSixteenth (m + 16) = -cosSixteenth m :=
  (cosSixteenth_eq (by push_cast; ring)).trans (Real.cos_add_pi _)

theorem cosSixteenth_supplement {m : Nat} (h : m ≤ 16) : cosSixteenth (16 - m) = -cosSixteenth m :=
  (cosSixteenth_eq (by rw [Nat.cast_sub h]; push_cast; ring)).trans (Real.cos_pi_sub _)

theorem cosSixteenth_double (m : Nat) : cosSixteenth (2 * m) = 2 * cosSixteenth m ^ 2 - 1 :=
  (cosSixteenth_eq (by push_cast; ring)).trans (Real.cos_two_mul _)

theorem cosSixteenth_nonneg {m : Nat} (h : m ≤ 8) : 0 ≤ cosSixteenth m := by
  have hm : (m : ℝ) ≤ 8 := by exact_mod_cast h
  have hpi := Real.pi_pos
  refine Real.cos_nonneg_of_neg_pi_div_two_le_of_le ?_ ?_
  · have : 0 ≤ (m : ℝ) * Real.pi / 16 := by positivity
    linarith
  · have := mul_le_mul_of_nonneg_right hm hpi.le
    linarith

/-- Bounds on the cosine of a doubled angle give bounds on the cosine of the angle. -/
theorem cosSixteenth_bounds {m : Nat} {l u l₂ u₂ : ℝ} (hm : m ≤ 8) (hu : 0 ≤ u)
    (h : l₂ < cosSixteenth (2 * m) ∧ cosSixteenth (2 * m) < u₂) (hl₂ : 2 * l ^ 2 - 1 ≤ l₂) (hu₂ : u₂ ≤ 2 * u ^ 2 - 1) :
    l < cosSixteenth m ∧ cosSixteenth m < u := by
  rw [cosSixteenth_double] at h
  exact ⟨lt_of_pow_lt_pow_left₀ 2 (cosSixteenth_nonneg hm) (by linarith), lt_of_pow_lt_pow_left₀ 2 hu (by linarith)⟩

theorem cosSixteenth_supplement_bounds {m : Nat} {l u : ℝ} (hm : m ≤ 16) (h : l < cosSixteenth m ∧ cosSixteenth m < u) :
    -u < cosSixteenth (16 - m) ∧ cosSixteenth (16 - m) < -l := by
  rw [cosSixteenth_supplement hm]
  exact ⟨neg_lt_neg h.2, neg_lt_neg h.1⟩

/-! ### Bounds in the first quadrant -/

theorem cosSixteenth_four_bounds : 0.707106 < cosSixteenth 4 ∧ cosSixteenth 4 < 0.707107 := by
  rw [cosSixteenth_four]
  constructor
  · have : 1.414212 < √2 := Real.lt_sqrt_of_sq_lt (by norm_num)
    linarith
  · have : √2 < 1.414214 := (Real.sqrt_lt' (by norm_num)).2 (by norm_num)
    linarith

theorem cosSixteenth_two_bounds : 0.923879 < cosSixteenth 2 ∧ cosSixteenth 2 < 0.923880 :=
  cosSixteenth_bounds (by decide) (by norm_num) cosSixteenth_four_bounds (by norm_num) (by norm_num)

theorem cosSixteenth_six_bounds : 0.382682 < cosSixteenth 6 ∧ cosSixteenth 6 < 0.382685 :=
  cosSixteenth_bounds (by decide) (by norm_num)
    (cosSixteenth_supplement_bounds (m := 4) (by decide) cosSixteenth_four_bounds) (by norm_num) (by norm_num)

/-! ### The nearest integers -/

/-- `c` is within one half of 4096 times the cosine of `m` sixteenths of π. -/
def NearCos (c : Int) (m : Nat) : Prop := |(c : ℝ) - 4096 * cosSixteenth m| < 1 / 2

/-- Bounds on the cosine of the doubled angle, tight enough, make `c` the nearest integer. -/
theorem nearCos_of_double {c : Int} {m : Nat} {l u : ℝ} (hm : m ≤ 8) (hc : 0 ≤ c)
    (h : l < cosSixteenth (2 * m) ∧ cosSixteenth (2 * m) < u) (hl : 2 * ((c - 1 / 2) / 4096) ^ 2 - 1 ≤ l)
    (hu : u ≤ 2 * ((c + 1 / 2) / 4096) ^ 2 - 1) : NearCos c m := by
  have hc' : (0 : ℝ) ≤ c := Int.cast_nonneg hc
  obtain ⟨hlo, hhi⟩ := cosSixteenth_bounds hm (by positivity) h hl hu
  exact abs_lt.2 ⟨by linarith, by linarith⟩

theorem NearCos.neg {c : Int} {m m' : Nat} (h : NearCos c m) (hm : cosSixteenth m' = -cosSixteenth m) :
    NearCos (-c) m' := by
  unfold NearCos at *
  rwa [hm, Int.cast_neg, mul_neg, neg_sub_neg, abs_sub_comm]

/-- 4096 times the cosines of the first quadrant, each rounded to the nearest integer. -/
def quadrantTable : List Int := [4096, 4017, 3784, 3406, 2896, 2276, 1567, 799, 0]

theorem nearCos_quadrantTable {m : Nat} (hm : m ≤ 8) : NearCos (quadrantTable.getD m 0) m := by
  have h2 := cosSixteenth_two_bounds
  have h4 := cosSixteenth_four_bounds
  have h6 := cosSixteenth_six_bounds
  have h8 : -0.0001 < cosSixteenth 8 ∧ cosSixteenth 8 < 0.0001 := by norm_num [cosSixteenth_eight]
  have h10 := cosSixteenth_supplement_bounds (by decide) h6
  have h12 := cosSixteenth_supplement_bounds (by decide) h4
  have h14 := cosSixteenth_supplement_bounds (by decide) h2
  obtain rfl | rfl | ⟨hlo, hhi⟩ : m = 0 ∨ m = 8 ∨ 1 ≤ m ∧ m ≤ 7 := by omega
  · simp [NearCos, quadrantTable, cosSixteenth]
  · simp [NearCos, quadrantTable, cosSixteenth_eight]
  · interval_cases m
    all_goals refine nearCos_of_double (by decide) (by decide) (by assumption) ?_ ?_ <;> norm_num [quadrantTable]

/-- 4096 times the cosine of `m` sixteenths of π, rounded to the nearest integer. -/
def nearestCos (m : Nat) : Int :=
  (-1) ^ (m / 16) * if m % 16 ≤ 8 then quadrantTable.getD (m % 16) 0 else -quadrantTable.getD (16 - m % 16) 0

theorem NearCos.add_half_turns {c : Int} {m : Nat} (h : NearCos c m) (q : Nat) : NearCos ((-1) ^ q * c) (m + 16 * q) := by
  induction q with
  | zero => simpa using h
  | succ q ih =>
    rw [pow_succ', mul_assoc, neg_one_mul]
    exact ih.neg (cosSixteenth_add_half_turn _)

theorem nearCos_nearestCos (m : Nat) : NearCos (nearestCos m) m := by
  have hhalf : NearCos (if m % 16 ≤ 8 then quadrantTable.getD (m % 16) 0 else -quadrantTable.getD (16 - m % 16) 0)
      (m % 16) := by
    split_ifs with h
    · exact nearCos_quadrantTable h
    · refine (nearCos_quadrantTable (m := 16 - m % 16) (by omega)).neg ?_
      rw [cosSixteenth_supplement (by omega), neg_neg]
  have hm := hhalf.add_half_turns (m / 16)
  rwa [Nat.mod_add_div] at hm

/-! ### The constants (R195) -/

theorem kConst_eq_nearestCos : ∀ k < 8, ∀ n < 8, k ≠ 0 → kConst k n = nearestCos ((2 * n + 1) * k) := by
  decide

/-- Settles O29: for `k = 0` the scaled value is 4096 times the cosine of π / 4, otherwise 4096 times that of
`(2n + 1) k` sixteenths of π. -/
theorem transformConstantsAreNearest : Obligations.TransformConstantsAreNearest := by
  intro k n hk hn
  rcases eq_or_ne k 0 with rfl | hk0
  · have hnear : NearCos (kConst 0 n) 4 := kConst_zero_left hn ▸ nearCos_nearestCos 4
    have hsqrt : (1 : ℝ) / √2 = √2 / 2 := Real.sqrt_div_self'.symm
    rw [NearCos, cosSixteenth_four] at hnear
    convert hnear using 3
    rw [if_pos rfl, hsqrt, Nat.cast_zero, mul_zero, zero_mul, zero_div, Real.cos_zero]
    ring
  · have hnear : NearCos (kConst k n) ((2 * n + 1) * k) := kConst_eq_nearestCos k hk n hn hk0 ▸ nearCos_nearestCos _
    rw [NearCos, cosSixteenth] at hnear
    convert hnear using 3
    rw [if_neg hk0]
    push_cast
    ring

end Sys2Proof.Machine
end

section
/-! SUPPORT and PROOFS. Upsampling, the colour conversion's channels and reference points, and what `FINISH` comes to:
every byte of the cropped raster, and the bytes above it (spec/43_reconstruct.md R220 to R226). -/

namespace Sys2Proof.Machine

/-! ### Upsampling (R221) -/

theorem upsampleIndex_mul_ratio (x : Nat) {factor : Nat} (hf : 1 ≤ factor) (ratio : Nat) :
    upsampleIndex x factor (factor * ratio) = x / ratio := by
  rw [upsampleIndex, Nat.mul_comm factor, Nat.mul_div_mul_right x ratio hf]

theorem upsampleIndex_self (x : Nat) {factor : Nat} (hf : 1 ≤ factor) : upsampleIndex x factor factor = x :=
  Nat.mul_div_cancel x hf

/-- Settles O32: the index is below the plane's size, and the factor cancels where it divides the maximum. -/
theorem upsamplingReadsInsidePlane : Obligations.UpsamplingReadsInsidePlane :=
  ⟨fun _ _ _ _ _ hf _ hx hs => upsampleIndex_lt hf hx hs, fun x _ ratio hf _ => upsampleIndex_mul_ratio x hf ratio,
    fun x _ hf => upsampleIndex_self x hf⟩

/-! ### The colour conversion (R222, R226) -/

theorem toNat_toChannel (v : Int) : ((toChannel v).toNat : Int) = min 255 (max 0 v) := by
  rw [toChannel, clamp, BitVec.toNat_ofInt]
  split_ifs <;> omega

/-- A channel that is a byte already is not clamped. -/
theorem toChannel_toNat (y : Byte) : toChannel y.toNat = y := by
  have hy := y.isLt
  have hchannel := toNat_toChannel y.toNat
  exact BitVec.eq_of_toNat_eq (by omega)

/-- Settles O33: each channel is its clamped value, and the chroma offsets from -128 to 127 bound the intermediates. -/
theorem colourConversionFormula : Obligations.ColourConversionFormula := by
  intro y cb cr
  have hcb := cb.isLt
  have hcr := cr.isLt
  refine ⟨_, _, _, rfl, toNat_toChannel _, toNat_toChannel _, toNat_toChannel _, ?_, ?_, ?_⟩
  all_goals rw [abs_lt]; omega

/-- With neutral chroma all three offsets are 0. -/
theorem ycc_neutral (y : Byte) : ycc y 128 128 = [y, y, y] := by
  have hoffsets : ycc y 128 128 = List.replicate 3 (toChannel (y.toNat + 0)) := rfl
  rw [hoffsets, add_zero, toChannel_toNat]
  rfl

/-- Settles O34: the table's triples are evaluated, and neutral chroma offsets no channel. -/
theorem colourReferencePoints : Obligations.ColourReferencePoints := by
  refine ⟨?_, ?_, ?_, ?_, ?_, ?_, ?_, ?_, ?_, ?_, ?_, ?_, ?_, ?_, ?_, ?_, ?_, ycc_neutral⟩
  all_goals decide

/-! ### The raster (R223, R224) -/

/-- Place `i * n + b` of a concatenation of lists of length `n` is place `b` of the `i`-th of them. -/
theorem getElem?_flatMap_of_length {α β : Type} {f : α → List β} {n : Nat} (hf : ∀ a, (f a).length = n)
    (l : List α) (i : Nat) {b : Nat} (hb : b < n) : (l.flatMap f)[n * i + b]? = l[i]?.bind fun a => (f a)[b]? := by
  induction l generalizing i with
  | nil => simp
  | cons a l ih =>
    rw [List.flatMap_cons]
    cases i with
    | zero => rw [Nat.mul_zero, Nat.zero_add, List.getElem?_append_left (by rwa [hf])]; rfl
    | succ i =>
      rw [List.getElem?_append_right (by rw [hf, Nat.mul_succ]; omega), hf,
        show n * (i + 1) + b - n = n * i + b by rw [Nat.mul_succ]; omega, ih, List.getElem?_cons_succ]

section

variable {s : State} {x y : Nat}

theorem pixelNumber_lt (hx : x < s.frameW.toNat) (hy : y < s.frameH.toNat) :
    y * s.frameW.toNat + x < s.frameW.toNat * s.frameH.toNat := by
  rw [Nat.mul_comm s.frameW.toNat]
  exact mul_add_lt_mul hy hx

theorem getElem?_raster (hx : x < s.frameW.toNat) (hy : y < s.frameH.toNat) {b : Nat} (hb : b < 3) :
    (raster s)[3 * (y * s.frameW.toNat + x) + b]? = (pixel s x y)[b]? := by
  have hcol : (y * s.frameW.toNat + x) % s.frameW.toNat = x := by rw [Nat.mul_add_mod', Nat.mod_eq_of_lt hx]
  have hrow : (y * s.frameW.toNat + x) / s.frameW.toNat = y := by
    rw [Nat.mul_comm, Nat.mul_add_div (by omega), Nat.div_eq_of_lt hx, Nat.add_zero]
  rw [raster, getElem?_flatMap_of_length (fun _ => pixel_length ..) _ _ hb, List.getElem?_range (pixelNumber_lt hx hy),
    Option.bind_some, hcol, hrow]

theorem sampleAt_of_read {c : Nat} {v : Byte} (h : s.plane.read (sampleKey s c x y) = some v) : sampleAt s c x y = v :=
  Memory.readOrFree_some h ..

/-- With the samples of the components in use, each byte of a pixel is that of the conversion or the grey value. -/
theorem getElem?_pixel_of_read {v : Nat → Byte} (hn : s.ncomp = 1 ∨ s.ncomp = 3)
    (hv : ∀ c, c < s.ncomp.toNat → s.plane.read (sampleKey s c x y) = some (v c)) {b : Nat} (hb : b < 3) :
    (pixel s x y)[b]? = if s.ncomp = 3 then (ycc (v 0) (v 1) (v 2))[b]? else some (v 0) := by
  have hsample : ∀ c < s.ncomp.toNat, sampleAt s c x y = v c := fun c hc => sampleAt_of_read (hv c hc)
  rcases hn with hn | hn
  · have hgrey : pixel s x y = List.replicate 3 (sampleAt s 0 x y) := if_neg (by simp [hn])
    rw [hgrey, List.getElem?_replicate_of_lt hb, hsample 0 (by simp [hn]), if_neg (by simp [hn])]
  · rw [pixel, if_pos hn, if_pos hn, hsample 0 (by simp [hn]), hsample 1 (by simp [hn]), hsample 2 (by simp [hn])]

/-! ### The check and the commit of `FINISH` (R220) -/

theorem finishCheck_of_incomplete (h : s.frameActive = false ∨ s.blkcnt ≠ s.blktotal) :
    finishCheck s = some .sequence :=
  if_pos (by simpa using h)

theorem exec_finish_of_finishCheck {c : Cause} (h : finishCheck s = some c) :
    exec .finish s = .next (raiseError c Opcode.finish.code 0 s) :=
  exec_of_headerCheck (i := .finish) h

theorem exec_finish_of_complete (ha : s.frameActive = true) (hall : s.blkcnt = s.blktotal) :
    exec .finish s = .next (commitFinish s) :=
  exec_of_passes (i := .finish) ((finishCheck_eq_none_iff s).2 ⟨ha, hall⟩)

theorem read_commitFinish_above {a : Nat} (h : 3 * (s.frameW.toNat * s.frameH.toNat) ≤ a) :
    (commitFinish s).outm.read a = s.outm.read a :=
  Memory.read_write_outside _ _ (.inr (by rw [raster_length]; omega))

theorem read_commitFinish_pixel (hx : x < s.frameW.toNat) (hy : y < s.frameH.toNat) {b : Nat} (hb : b < 3) :
    (commitFinish s).outm.read (3 * (y * s.frameW.toNat + x) + b) = (pixel s x y)[b]? := by
  have hlt := pixelNumber_lt hx hy
  rw [commitFinish_outm, Memory.read_write, if_pos (by rw [raster_length]; omega), Nat.sub_zero,
    getElem?_raster hx hy hb]

end

/-- Settles O31: each clause is the header's check or the commit, whose raster is laid out pixel by pixel. -/
theorem finishOutcome : Obligations.FinishOutcome := fun s =>
  ⟨fun hout => exec_finish_of_finishCheck (finishCheck_of_incomplete hout), fun ha hall =>
    ⟨commitFinish s, exec_finish_of_complete ha hall, rfl, fun _ habove => read_commitFinish_above habove,
      fun _ _ _ hn hx hy hv _ hb => (read_commitFinish_pixel hx hy hb).trans (getElem?_pixel_of_read hn hv hb)⟩⟩

end Sys2Proof.Machine
end

section
/-! SUPPORT and PROOFS. Errors: which checks raise SEQUENCE (spec/60_exceptions.md R253), what an error writes and what
goes on after it (R255, R259), that only a reset ends it (R258), and that it leaves no partial image (R257). -/

namespace Sys2Proof.Machine

open Host (Outcome)

/-! ### Which checks raise SEQUENCE (R253) -/

/-- The configuration commands raise SEQUENCE inside a frame, by the first of their checks, and nowhere else. -/
theorem headerCheck_eq_sequence_iff_frameActive {op : Opcode} (hop : op ∈ [.setFrame, .setComp, .loadQt, .start])
    (hdr : Word) (s : State) : headerCheck op hdr s = some .sequence ↔ s.frameActive = true := by
  cases op with
  | nop | block | finish => simp at hop
  | setFrame | setComp | loadQt | start =>
    simp only [headerCheck, setFrameCheck, setCompCheck, loadQtCheck, startCheck]
    split_ifs with ha <;> simp [ha]

theorem blockCheck_eq_sequence_iff (s : State) :
    blockCheck s = some .sequence ↔ s.frameActive = false ∨ s.blktotal.toNat ≤ s.blkcnt.toNat := by
  simp [blockCheck, imp_iff_not_or]

theorem finishCheck_eq_sequence_iff (s : State) :
    finishCheck s = some .sequence ↔ s.frameActive = false ∨ s.blkcnt ≠ s.blktotal := by
  simp [finishCheck, imp_iff_not_or]

/-! ### What a command that fails leaves (R255) -/

/-- A command that fails enters the error state at one of its own words, by its header's check or by a payload word's,
which has two causes only. -/
theorem exec_error {i : Instr} {s t : State} (he : s.err = false) (h : exec i s = .next t) (ht : t.err = true) :
    ∃ c j, t = raiseError c i.opcode.code j s ∧ j < i.opcode.len ∧
      (headerCheck i.opcode (encodeHeader i) s = some c ∨ c = .invalidDimension ∨ c = .outOfRangeField) := by
  have hlen : 1 ≤ i.opcode.len := by cases i.opcode <;> decide
  rcases exec_turnedAway_or_accepted i s with ⟨c, hh, hx⟩ | ⟨j, c, -, hp, hx⟩ | ⟨-, hx⟩ <;>
    obtain rfl := Outcome.next.inj (hx.symm.trans h)
  · exact ⟨c, 0, rfl, hlen, .inl hh⟩
  · have hj := firstBad_bounds hp
    rw [encodePayload_length] at hj
    exact ⟨c, j, rfl, by omega, .inr (firstBad_cause (fun _ _ => payloadCheck_eq_some) _ _ _ hp)⟩
  · simp [he] at ht

/-- A command fails with SEQUENCE exactly by its header's check. -/
theorem exec_sequence_iff {i : Instr} {s t : State} (he : s.err = false) (h : exec i s = .next t) :
    (t.err = true ∧ t.errInfo.cause = .sequence) ↔ headerCheck i.opcode (encodeHeader i) s = some .sequence := by
  constructor
  · rintro ⟨ht, hcause⟩
    obtain ⟨c, j, rfl, -, hcheck⟩ := exec_error he h ht
    obtain rfl : c = .sequence := hcause
    simpa using hcheck
  · intro hh
    obtain rfl := Outcome.next.inj ((exec_of_headerCheck hh).symm.trans h)
    exact ⟨rfl, rfl⟩

/-- Settles O36: SEQUENCE is the answer of the header's check to the frame state. -/
theorem sequenceLegality : Obligations.SequenceLegality := by
  intro i s t he h
  refine (exec_sequence_iff he h).trans ?_
  cases i with
  | nop => simp [Instr.opcode, headerCheck]
  | setFrame | setComp | loadQt | start => exact headerCheck_eq_sequence_iff_frameActive (by simp [Instr.opcode]) _ s
  | block coefs => exact blockCheck_eq_sequence_iff s
  | finish => exact finishCheck_eq_sequence_iff s

/-! ### While the engine is halted (R255, R258, R259) -/

/-- `FIFOSTAT` reads FREE in its low half (spec/10_state.md R49). -/
theorem extractLsb'_fifoStatWord (s : State) :
    (fifoStatWord s).extractLsb' 0 16 = BitVec.ofNat 16 (s.params.fifoDepth - s.fifo.length) := by
  rw [fifoStatWord, halves_eq_append, BitVec.extractLsb'_append_eq_of_add_le (by decide), BitVec.extractLsb'_eq_self]

/-- Settles O37: an error writes what R255 lists, and by the port's rules nothing is queued or held after it. -/
theorem errorEntryAndHalt : Obligations.ErrorEntryAndHalt := by
  refine ⟨fun i s t he h ht => ?_, fun s hport hp => ?_⟩
  · obtain ⟨c, j, rfl, hj, hcheck⟩ := exec_error he h ht
    refine ⟨rfl, ?_, rfl, (Nat.mod_le j _).trans_lt hj⟩
    rcases hcheck with hh | rfl | rfl
    · exact headerCheck_cause hh
    · simp
    · simp
  · obtain ⟨-, -, hhalted, hquiet, -⟩ := hport
    have herr : s.err = true := hhalted.2 hp
    obtain ⟨hfifo, hheld, -, -⟩ := hquiet herr
    have hholds : ∀ m, holds m s = false := fun m => by simp [holds, hheld]
    obtain ⟨-, hpasses, -, -⟩ := engineStepTakesOneWord s
    refine ⟨fun ha => step_halted ha hp, fun ts ha => hpasses ts ha (.inr hp), fun m w ts ha => ?_,
      fun m w ts ha h31 => ?_, fun m off ts ha ho => ⟨_, step_read ha (hholds m) ho, rfl⟩, ?_, ?_⟩
    · obtain ⟨hwrite, -⟩ := commandPortWrite s m w ts (hholds m)
      obtain ⟨-, -, hdiscarded⟩ := hwrite ha
      exact hdiscarded herr
    · obtain ⟨hwrite, -⟩ := ctrlAndStatusWrites s m w ts (hholds m)
      obtain ⟨t, hstep, rfl, -⟩ := hwrite ha h31
      exact hstep
    · refine (extractLsb'_fifoStatWord s).trans ?_
      rw [hfifo, List.length_nil, Nat.sub_zero]
    · simp [State.busy, herr]

/-- `CTRL` stands at its own offset only (R81). -/
theorem offset_of_ctrl {p : Params} {off : Nat} (ho : off % 4 = 0) (h : targetAt p off = .ctrl) : off = 0x08 := by
  rcases offset_of_write_effect (p := p) ho (by simp [h]) with rfl | rfl | rfl
  · rfl
  all_goals simp [targetAt, registerMap] at h

/-- A host write keeps the error state, unless it is a soft reset. -/
theorem hostWrite_keeps_error {m : Master} {off : Nat} {w : Word} {s : State}
    (h : targetAt s.params off = .ctrl → w.getLsbD 31 = false) :
    (hostWrite m off w s).ps = s.ps ∧ (hostWrite m off w s).err = s.err ∧
      (hostWrite m off w s).errInfo = s.errInfo := by
  unfold hostWrite
  cases ht : targetAt s.params off
  case ctrl => simp only [writeCtrl_enables (h ht), and_self]
  case status => simp only [writeStatus_eq, and_self]
  case cmdport =>
    simp only [writeCmdPort]
    split_ifs <;> exact ⟨rfl, rfl, rfl⟩
  all_goals exact ⟨rfl, rfl, rfl⟩

/-- A halted engine takes no word. -/
theorem EngineLeaves.not_halted {s u : State} (h : EngineLeaves s u) : s.ps ≠ .halted := by
  cases h with
  | error w rest v c op j hf hp hc hv => exact hp
  | header w rest op hf hp hd hl hc => simp [hp]
  | staged w rest op hdr n hf hp hc hl => simp [hp]
  | oneWord w rest op hf hp hd hl hc => simp [hp]
  | lastWord w rest op hdr n v hf hp hw hl hv hc => simp [hp]

/-- Settles O38: a halted engine takes no step, reads and passed turns change nothing, and a write that is no reset
keeps the error state. -/
theorem onlyResetEndsTheErrorState : Obligations.OnlyResetEndsTheErrorState := by
  intro s t hp hstep hturn
  rcases step_cases hstep with ⟨ts, u, -, hu, rfl⟩ | ⟨ts, -, -, rfl⟩ | ⟨m, off, ts, -, -, -, rfl⟩ |
    ⟨m, off, w, ts, ha, ho, -, rfl⟩ | ⟨ts, ha, rfl⟩
  · exact absurd hp hu.not_halted
  · exact ⟨hp, rfl, rfl⟩
  · exact ⟨hp, rfl, rfl⟩
  · have hkeeps : w.getLsbD 31 = true → off ≠ 0x08 := by simpa [Turn.resets, imp_not_comm] using hturn _ _ ha
    obtain ⟨hps, herr, hinfo⟩ := hostWrite_keeps_error (m := m) (off := off.toNat) (w := w)
      (s := { s with agenda := ts }) fun hctrl =>
        Bool.eq_false_iff.2 fun h31 => hkeeps h31 (BitVec.eq_of_toNat_eq (offset_of_ctrl ho hctrl))
    exact ⟨hps.trans hp, herr, hinfo⟩
  · exact absurd (hturn _ _ ha) (by simp [Turn.resets])

/-! ### No partial image (R257) -/

/-- An engine step that ends in an error commits nothing: it writes no image and closes the frame. -/
theorem EngineLeaves.keeps_image_of_err {s u : State} (h : EngineLeaves s u) (he : s.err = false)
    (hu : u.err = true) : u.done = s.done ∧ u.outm = s.outm ∧ u.frameActive = false := by
  cases h with
  | error w rest v c op j hf hp hc hv => rcases hv with rfl | ⟨op', hdr, n, -, -, rfl⟩ <;> exact ⟨rfl, rfl, rfl⟩
  | header | staged | oneWord => simp [he] at hu
  | lastWord w rest op hdr n v hf hp hw hl hv hc => simp [hv, he] at hu

/-- The host cannot raise an error. -/
theorem err_hostWrite {s : State} (he : s.err = false) (m : Master) (off : Nat) (w : Word) :
    (hostWrite m off w s).err = false := by
  rcases hostWrite_cases m off w s with hw | hw | hw | ⟨-, -, hw⟩ | ⟨-, -, hw⟩ | hw <;> rw [hw]
  · rfl
  all_goals exact he

/-- Settles O41: only an engine step ends in an error, and inside a frame `DONE` was 0. -/
theorem noPartialImage : Obligations.NoPartialImage := by
  intro s t hframe ha he hstep ht
  obtain ⟨-, -, hin, -⟩ := hframe
  obtain ⟨hdone, -⟩ := hin ha
  rcases step_cases hstep with ⟨ts, u, -, hu, rfl⟩ | ⟨ts, -, -, rfl⟩ | ⟨m, off, ts, -, -, -, rfl⟩ |
    ⟨m, off, w, ts, -, -, -, rfl⟩ | ⟨ts, -, rfl⟩
  · obtain ⟨hd, ho, hf⟩ := hu.keeps_image_of_err he (by simpa using ht)
    exact ⟨by simpa using hd.trans hdone, by simpa using ho, by simpa using hf⟩
  · exact absurd (he.symm.trans ht) Bool.false_ne_true
  · exact absurd (he.symm.trans ht) Bool.false_ne_true
  · have herr := err_hostWrite (s := { s with agenda := ts }) he m off.toNat w
    exact absurd (herr.symm.trans ht) Bool.false_ne_true
  · exact absurd ht Bool.false_ne_true

end Sys2Proof.Machine
end

section
/-! SUPPORT and PROOFS. Soft reset and power-on (spec/70_reset_and_hazards.md R290, R291). -/

namespace Sys2Proof.Machine

/-- The other bits of the write are discarded (R291). -/
theorem writeCtrl_reset {w : Word} (h : w.getLsbD 31 = true) (s : State) : writeCtrl w s = resetEngine s := if_pos h

theorem step_powerOn {s : State} {ts : List Turn} (ha : s.agenda = .powerOn :: ts) :
    step s = .next (resetEngine { s with agenda := ts }) := by
  simp [step, nextMove, ha]

/-- Two resets in a row give the same state as one (R291). -/
@[simp] theorem resetEngine_resetEngine (s : State) : resetEngine (resetEngine s) = resetEngine s := rfl

/-- Settles O43: the write reaches `CTRL`, where bit 31 resets the engine as power-on does. -/
theorem softResetOutcome : Obligations.SoftResetOutcome := by
  refine ⟨fun s m w ts ha hh h31 => ?_, fun s ts ha => step_powerOn ha, fun r =>
    ⟨ctrlWord_reset r, resetEngine_resetEngine r⟩⟩
  rw [step_write ha hh rfl]
  exact congrArg (fun t : State => Host.Outcome.next { t with resp := some .writeDone })
    (writeCtrl_reset h31 { s with agenda := ts })

end Sys2Proof.Machine
end
